-- ==== Sys2Proof/Word.lean ====
section
/-! DEFINITION. The two word types of QR-CORE: the 32-bit command and register word (10_state.md R23,
30_encoding.md R70) and the byte every memory space moves (20_memory.md R53). -/

namespace Sys2Proof

/-- One byte: a codeword, a byte of the BitBuffer view, a byte of the output buffer (R53). -/
abbrev Byte := BitVec 8

/-- One 32-bit value: a command word (R70) or a register read through the read port (R23). -/
abbrev Word := BitVec 32

end Sys2Proof
end

