-- ==== Sys2Proof/Config.lean ====
section
/-! DEFINITION. The implementation parameters of 00_scope.md R6 that are single numbers. The lookup tables of
the same rule stand in Machine/Rom.lean, and OUT_CAP, which is the host's choice for each instance
(R6, 93_implementation_defined.md U5), is the field `outCap` of State. QR-CORE has no free value: the
spec leaves no result open (70_reset_and_hazards.md R341, 30_encoding.md R77). -/

namespace Sys2Proof.Config

/-- `VMIN`, the lowest legal version (R6). -/
def vMin : Nat := 1

/-- `VMAX`, the highest legal version (R6). -/
def vMax : Nat := 40

/-- `SIZE_MAX = SIZE(40)`, the side of the module grid's array (R6, 10_state.md R30). -/
def sizeMax : Nat := 177

/-- `BB_CAP_BITS`, the capacity of the BitBuffer in bits (R6, R29). -/
def bbCapBits : Nat := 23648

/-- `BB_CAP_BYTES`, the size of the BB read space (R6, R50). -/
def bbCapBytes : Nat := 2956

/-- `CW_CAP`, the size of the codeword memory (R6, R31). -/
def cwCap : Nat := 3706

/-- `N1`, the penalty weight of rule (a) (R6, 45_mask_select.md R225). -/
def n1 : Nat := 3

/-- `N2`, the penalty weight of rule (b) (R6, R226). -/
def n2 : Nat := 3

/-- `N3`, the penalty weight of rule (c) (R6, R227). -/
def n3 : Nat := 40

/-- `N4`, the penalty weight of rule (d) (R6, R228). -/
def n4 : Nat := 10

/-- `GF_POLY`, the reduction polynomial of GF(256), nine bits (R6, 43_reed_solomon.md R150). -/
def gfPoly : BitVec 9 := 0x11D

end Sys2Proof.Config
end

