-- ==== Sys2Proof/Syntax.lean ====
section
/-! DEFINITION. The commands of QR-CORE: one constructor of `Instr` for each row of spec/opcode_table.json
(30_encoding.md R75), and the lines of the assembler's textual form and its pseudo-instructions
(R79, R80), which are no commands of their own: each stands for words of the commands. -/

namespace Sys2Proof

/-- The error-correction levels in the order of CONFIG.ECL: 0, 1, 2, 3 (42_config.md R122). -/
inductive Ecl where
  | low
  | medium
  | quartile
  | high
deriving DecidableEq, Repr

/-- A decoded command. The operand fields are the fields of the word, taken as they stand (R74). -/
inductive Instr where
  /-- BB_CLEAR, format N, opcode 0x01 (41_bitbuffer.md R102). -/
  | bbClear
  /-- BB_APPEND, format A, opcode 0x02: NBITS and VALUE (R103). -/
  | bbAppend (nbits : BitVec 5) (value : BitVec 16)
  /-- CFG_SET, format C, opcode 0x10: MASK, ECL and VERSION (42_config.md R121). -/
  | cfgSet (mask : BitVec 4) (ecl : Ecl) (version : BitVec 6)
  /-- RS_ENCODE, format N, opcode 0x20 (43_reed_solomon.md R160). -/
  | rsEncode
  /-- GRID_BUILD, format N, opcode 0x30 (44_grid_layout.md R195). -/
  | gridBuild
  /-- MASK_SELECT, format N, opcode 0x40 (45_mask_select.md R232). -/
  | maskSelect
  /-- OUT_WRITE, format N, opcode 0x50 (46_output.md R261). -/
  | outWrite
  /-- ENCODE, format N, opcode 0x60 (46_output.md R262). -/
  | encode
deriving DecidableEq, Repr

/-- One line of the assembler's textual form with its numbers read (R79), or a pseudo-instruction (R80).
Operands are the numbers as written, of any size: the assembler refuses those that do not fit. -/
inductive AsmLine where
  | bbClear
  | bbAppend (n v : Nat)
  /-- `CFG_SET v, e, m`; `none` is `auto`. -/
  | cfgSet (v e : Nat) (m : Option Nat)
  | rsEncode
  | gridBuild
  | maskSelect
  | outWrite
  | encode
  /-- pseudo `BB_BYTE b` -/
  | bbByte (b : Nat)
  /-- pseudo `BB_BITS n, v` -/
  | bbBits (n v : Nat)
  /-- pseudo `BB_PAD k` -/
  | bbPad (k : Nat)
  /-- pseudo `CFG_AUTO v, e` -/
  | cfgAuto (v e : Nat)
deriving DecidableEq, Repr

end Sys2Proof
end

