-- ==== Sys2Proof/WellFormed.lean ====
section
/-! DEFINITION. Which commands are well formed: the operand field values a command word may carry
(30_encoding.md R76 step 3). A VERSION outside 1..40 is NOT ill formed: such a CFG_SET word decodes and
executes, and its execution raises InvalidVersionRange (42_config.md R121). -/

namespace Sys2Proof

/-- The MASK field values CFG_SET takes: 0..7 force a mask, 0xF is automatic; 8..14 are illegal (R123). -/
def maskFieldLegal (mask : BitVec 4) : Bool :=
  decide (mask.toNat ≤ 7) || decide (mask.toNat = 15)

/-- The operand values BB_APPEND takes: `NBITS ≤ 16` and `VALUE < 2^NBITS` (R103). -/
def appendFieldsLegal (nbits : BitVec 5) (value : BitVec 16) : Bool :=
  decide (nbits.toNat ≤ 16) && decide (value.toNat < 2 ^ nbits.toNat)

/-- The check of R76 step 3. -/
def Instr.wellFormed : Instr → Bool
  | .bbClear => true
  | .bbAppend nbits value => appendFieldsLegal nbits value
  | .cfgSet mask _ _ => maskFieldLegal mask
  | .rsEncode => true
  | .gridBuild => true
  | .maskSelect => true
  | .outWrite => true
  | .encode => true

end Sys2Proof
end

