-- ==== Sys2Proof/Decode.lean ====
section
/-! DEFINITION. Decoding a command word (30_encoding.md R70 to R78), the encoder written from the same formats,
and the expansion of the assembler's lines into commands (R79, R80). Decoding is total: every one of the
2^32 words is a command or is rejected by name (R77). -/

namespace Sys2Proof

/-- Why a word is no command, in the order R76 tests: each of the three raises IllegalCommand. -/
inductive DecodeError where
  /-- R76 step 1: the opcode is not in the table of R75. -/
  | unassignedOpcode
  /-- R76 step 2: a reserved field of the format is not 0. -/
  | reservedField
  /-- R76 step 3: an operand field value the command does not take. -/
  | illegalOperand
deriving DecidableEq, Repr

/-- `OPC = w[31:24]` (R70). -/
def opcodeField (w : Word) : BitVec 8 := w.extractLsb' 24 8

/-- The two-bit ECL field as a level (R122). -/
def eclOfBits (b : BitVec 2) : Ecl :=
  match b.toNat with
  | 0 => .low
  | 1 => .medium
  | 2 => .quartile
  | _ => .high

/-- A level as the two bits of the ECL field (R122). -/
def eclToBits : Ecl → BitVec 2
  | .low => 0
  | .medium => 1
  | .quartile => 2
  | .high => 3

/-- Format N: `w[23:0]` must be 0 (R71). -/
def decodeN (w : Word) (i : Instr) : Except DecodeError Instr :=
  if w.extractLsb' 0 24 = 0 then .ok i else .error .reservedField

/-- Format A: `w[23:21]` must be 0; NBITS is `w[20:16]`, VALUE is `w[15:0]` (R72); then the operand check of
R76 step 3. -/
def decodeA (w : Word) : Except DecodeError Instr :=
  if w.extractLsb' 21 3 ≠ 0 then .error .reservedField
  else
    let nbits : BitVec 5 := w.extractLsb' 16 5
    let value : BitVec 16 := w.extractLsb' 0 16
    if nbits.toNat > 16 ∨ value.toNat ≥ 2 ^ nbits.toNat then .error .illegalOperand
    else .ok (.bbAppend nbits value)

/-- Format C: `w[23:16]`, `w[11:10]` and `w[7:6]` must be 0; MASK is `w[15:12]`, ECL `w[9:8]`, VERSION
`w[5:0]` (R73); then the operand check of R76 step 3. -/
def decodeC (w : Word) : Except DecodeError Instr :=
  if w.extractLsb' 16 8 ≠ 0 ∨ w.extractLsb' 10 2 ≠ 0 ∨ w.extractLsb' 6 2 ≠ 0 then .error .reservedField
  else
    let mask : BitVec 4 := w.extractLsb' 12 4
    if 8 ≤ mask.toNat ∧ mask.toNat ≤ 14 then .error .illegalOperand
    else .ok (.cfgSet mask (eclOfBits (w.extractLsb' 8 2)) (w.extractLsb' 0 6))

/-- The decoder: the opcode alone selects the format (R70, R75), then R76 steps 2 and 3. -/
def decode (w : Word) : Except DecodeError Instr :=
  match (opcodeField w).toNat with
  | 0x01 => decodeN w .bbClear
  | 0x02 => decodeA w
  | 0x10 => decodeC w
  | 0x20 => decodeN w .rsEncode
  | 0x30 => decodeN w .gridBuild
  | 0x40 => decodeN w .maskSelect
  | 0x50 => decodeN w .outWrite
  | 0x60 => decodeN w .encode
  | _ => .error .unassignedOpcode

/-- The opcode of each command (R75). -/
def opcodeOf : Instr → BitVec 8
  | .bbClear => 0x01
  | .bbAppend _ _ => 0x02
  | .cfgSet _ _ _ => 0x10
  | .rsEncode => 0x20
  | .gridBuild => 0x30
  | .maskSelect => 0x40
  | .outWrite => 0x50
  | .encode => 0x60

/-- Bits 23..0 of each command's word: formats N, A and C (R71, R72, R73). -/
def operandBits : Instr → BitVec 24
  | .bbAppend nbits value => (0#3) ++ nbits ++ value
  | .cfgSet mask ecl version => (0#8) ++ mask ++ (0#2) ++ eclToBits ecl ++ (0#2) ++ version
  | _ => 0

/-- The encoder: the word of a command (R71 to R75). -/
def encode (i : Instr) : Word := opcodeOf i ++ operandBits i

/-- The command YOUR DECODER reads from a row of spec/opcode_table.json: a command is one 32-bit word, so the
`nbits` low bits of `w` are that word and every bit above them is 0. -/
def decodeTableWord (nbits w : Nat) : Option Instr :=
  match decode (BitVec.ofNat 32 (w % 2 ^ nbits)) with
  | .ok i => some i
  | .error _ => none

/-- An ECL operand of the assembler: 0..3 (R79). -/
def asmEcl (e : Nat) : Option Ecl :=
  if e < 4 then some (eclOfBits (BitVec.ofNat 2 e)) else none

/-- The MASK field of an assembler operand: `auto` is 0xF, a number must be 0..7 (R79). -/
def asmMask : Option Nat → Option (BitVec 4)
  | none => some 0xF
  | some m => if m ≤ 7 then some (BitVec.ofNat 4 m) else none

/-- `BB_APPEND n, v`, refused where an operand does not fit (R79, R76 step 3). -/
def asmAppend (n v : Nat) : Option Instr :=
  if n ≤ 16 ∧ v < 2 ^ n then some (.bbAppend (BitVec.ofNat 5 n) (BitVec.ofNat 16 v)) else none

/-- `CFG_SET v, e, m`, refused where an operand does not fit its field (R79). A version of 0 or 41..63 fits
the field and is assembled: the command itself reports it (R121). -/
def asmCfg (v e : Nat) (m : Option Nat) : Option Instr :=
  match asmMask m, asmEcl e with
  | some mask, some ecl => if v < 64 then some (.cfgSet mask ecl (BitVec.ofNat 6 v)) else none
  | _, _ => none

/-- The pad byte `p_i` of BB_PAD: 0xEC for even `i`, 0x11 for odd `i` (R80). -/
def padByte (i : Nat) : Nat := if i % 2 = 0 then 0xEC else 0x11

/-- The commands one assembler line stands for; `none` where the assembler refuses it (R79, R80). -/
def assemble : AsmLine → Option (List Instr)
  | .bbClear => some [.bbClear]
  | .bbAppend n v => (asmAppend n v).map fun i => [i]
  | .cfgSet v e m => (asmCfg v e m).map fun i => [i]
  | .rsEncode => some [.rsEncode]
  | .gridBuild => some [.gridBuild]
  | .maskSelect => some [.maskSelect]
  | .outWrite => some [.outWrite]
  | .encode => some [.encode]
  | .bbByte b => (asmAppend 8 b).map fun i => [i]
  | .bbBits n v =>
    if n ≤ 16 then (asmAppend n v).map fun i => [i]
    else if n ≤ 32 ∧ v < 2 ^ n then
      match asmAppend (n - 16) (v >>> 16), asmAppend 16 (v &&& 0xFFFF) with
      | some hi, some lo => some [hi, lo]
      | _, _ => none
    else none
  | .bbPad k => some ((List.range k).map fun i => .bbAppend 8 (BitVec.ofNat 16 (padByte i)))
  | .cfgAuto v e => (asmCfg v e none).map fun i => [i]

end Sys2Proof
end

