-- ==== Sys2Proof/Machine/State.lean ====
section
/-! DEFINITION. The state of QR-CORE (10_state.md R20 to R36) as plain data, the reasons a step can stop, and the
state after reset (70_reset_and_hazards.md R341). -/

namespace Sys2Proof.Machine

/-- STATUS.GRID_STATE: how far the grid has come (10_state.md R24, R27). The value 3 never occurs. -/
inductive GridState where
  | empty
  | placed
  | final
deriving DecidableEq, Repr

/-- STATUS.ERR: the result codes 0 .. 7 of 60_exceptions.md R300, in order. Codes 8 .. 15 are not produced. -/
inductive ErrCode where
  | ok
  | dataTooLong
  | invalidSegment
  | invalidVersionRange
  | internalInconsistency
  | illegalCommand
  | stageError
  | bufferTooSmall
deriving DecidableEq, Repr

/-- CONFIG.MASK_REQ: automatic (the field 0xF) or a forced mask 0 .. 7 (42_config.md R123). The field values
8 .. 14 are refused by CFG_SET and never stored (10_state.md R25). -/
inductive MaskReq where
  | auto
  | forced (m : Fin 8)
deriving DecidableEq, Repr

/-- One cell of the module grid: UNSET or `SET(dark, func)` (10_state.md R30). -/
inductive Cell where
  | unset
  | set (dark func : Bool)
deriving DecidableEq, Repr

/-- The module grid as its rows from the top, each row its cells from the left (R30, R10). A cell beyond the
listed ones is UNSET, and the lists never leave the `SIZE_MAX` by `SIZE_MAX` array (log 9). -/
abbrev Grid := List (List Cell)

/-- The caller's output buffer: the bytes written so far, at strictly rising offsets; an unlisted offset holds
no known value (R32, log 5). -/
abbrev Memory := List Host.Cell

/-- What the host has still to do at the core's boundary, one action a step (60_exceptions.md R310, log 1). -/
inductive PortInput where
  /-- write a command word to the command port (30_encoding.md R70) -/
  | command (w : Word)
  /-- assert reset (70_reset_and_hazards.md R340) -/
  | reset
deriving DecidableEq, Repr

/-- Why the machine can stop. -/
inductive Fault where
  /-- A write to the output buffer at an offset outside `0 .. OUT_CAP - 1`, which 20_memory.md R59 says does not
  exist. Raised by `writeOut`. Safe: no command of the model reaches it, since OUT_WRITE and ENCODE test
  `OUT_CAP` before they write (46_output.md R261, log 6). -/
  | outOfBuffer (offset : Nat)
deriving DecidableEq, Repr

/-- Why an instruction has no meaning in the model. -/
inductive Refusal where
  /-- The instruction's arm of `exec` has no meaning yet. Raised by `exec` only. Safe. No arm of this model
  raises it. -/
  | notModelled (mnemonic : String)
deriving DecidableEq, Repr

/-- Everything the spec gives one QR-CORE instance and the host memory beside it. -/
structure State where
  /-- STATUS.ERR (R24) -/
  err : ErrCode
  /-- STATUS.FAULT (R24, 60_exceptions.md R305) -/
  fault : Bool
  /-- STATUS.CW_VALID (R24, R27) -/
  cwValid : Bool
  /-- STATUS.GRID_STATE (R24, R27) -/
  gridState : GridState
  /-- CONFIG.VERSION (R25) -/
  version : BitVec 6
  /-- CONFIG.ECL (R25) -/
  ecl : Ecl
  /-- CONFIG.MASK_REQ (R25) -/
  maskReq : MaskReq
  /-- ERR_CMD (R28) -/
  errCmd : Word
  /-- SEL_MASK: 0 .. 7, or 0xF for none (R23) -/
  selMask : BitVec 4
  /-- PENALTY, or 0xFFFFFFFF for none (R23) -/
  penalty : Word
  /-- PEN0 .. PEN7, each 0xFFFFFFFF where not evaluated (R23) -/
  pens : Vector Word 8
  /-- the BitBuffer, first appended bit first (R29); BB_LEN is its length -/
  bb : List Bool
  /-- the codeword memory (R31); CW_LEN is its length -/
  cw : List Byte
  /-- the module grid (R30) -/
  grid : Grid
  /-- the caller's output buffer OUT (R32) -/
  out : Memory
  /-- OUT_CAP, the size of the caller's output buffer (00_scope.md R6, log 4) -/
  outCap : Nat
  /-- what the host has still to write to the port, oldest first (log 1) -/
  port : List PortInput
deriving DecidableEq, Repr

/-- The state after power-on reset (R341, R36): every field at the value of the table; nothing written to OUT
(log 5), an output buffer of 3918 bytes (log 4) and nothing waiting at the port (log 1). -/
def State.reset : State where
  err := .ok
  fault := false
  cwValid := false
  gridState := .empty
  version := 1
  ecl := .low
  maskReq := .auto
  errCmd := 0
  selMask := 0xF
  penalty := 0xFFFFFFFF
  pens := #v[0xFFFFFFFF, 0xFFFFFFFF, 0xFFFFFFFF, 0xFFFFFFFF, 0xFFFFFFFF, 0xFFFFFFFF, 0xFFFFFFFF, 0xFFFFFFFF]
  bb := []
  cw := []
  grid := []
  out := []
  outCap := 3918
  port := []

end Sys2Proof.Machine
end

