-- ==== Sys2Proof/Machine/Flags.lean ====
section
/-! DEFINITION. The only flags of QR-CORE, the STATUS fields (10_state.md R24, R26): their codes, the STATUS
word, and the stage flags' two invalidation actions (R27). -/

namespace Sys2Proof.Machine

/-- The number of a result code (60_exceptions.md R300). -/
def ErrCode.code : ErrCode → BitVec 4
  | .ok => 0
  | .dataTooLong => 1
  | .invalidSegment => 2
  | .invalidVersionRange => 3
  | .internalInconsistency => 4
  | .illegalCommand => 5
  | .stageError => 6
  | .bufferTooSmall => 7

/-- The number of a grid state (R24). -/
def GridState.code : GridState → BitVec 2
  | .empty => 0
  | .placed => 1
  | .final => 2

/-- The STATUS register: ERR [3:0], FAULT [4], CW_VALID [5], GRID_STATE [7:6], the rest 0 (R24). -/
def statusWord (s : State) : Word :=
  (0#24) ++ s.gridState.code ++ BitVec.ofBool s.cwValid ++ BitVec.ofBool s.fault ++ s.err.code

/-- What PENALTY and PEN0 .. PEN7 hold for none and for not evaluated (R23). -/
def noPenalty : Word := 0xFFFFFFFF

/-- What SEL_MASK holds for none (R23). -/
def noMask : BitVec 4 := 0xF

/-- Eight PEN registers, none evaluated (R23). -/
def noPens : Vector Word 8 :=
  #v[noPenalty, noPenalty, noPenalty, noPenalty, noPenalty, noPenalty, noPenalty, noPenalty]

/-- SEL_MASK, PENALTY and PEN0 .. PEN7 set to none (R27, R33). -/
def clearMaskResults (s : State) : State :=
  { s with selMask := noMask, penalty := noPenalty, pens := noPens }

/-- `InvalidateGrid()` (R27): GRID_STATE becomes EMPTY, every cell UNSET, the mask results none. -/
def invalidateGrid (s : State) : State :=
  clearMaskResults { s with gridState := .empty, grid := [] }

/-- `InvalidateCW()` (R27): CW_VALID becomes 0, CW is emptied, and the grid is invalidated. -/
def invalidateCW (s : State) : State :=
  invalidateGrid { s with cwValid := false, cw := [] }

/-- `x[STATUS].ERR <- OK`, the end of every command that completes (60_exceptions.md R302). -/
def complete (s : State) : State := { s with err := .ok }

end Sys2Proof.Machine
end

