-- ==== Sys2Proof/Machine/Memory.lean ====
section
/-! DEFINITION. The one memory QR-CORE writes byte by byte, the caller's output buffer OUT (10_state.md R32):
its read, its write, and the canonical form of its list. -/

namespace Sys2Proof.Machine

/-- The canonical form: strictly rising offsets. An unlisted offset reads as no value (log 5), so no listed
byte can equal what an unlisted offset reads as. -/
abbrev Memory.wf (m : Memory) : Prop := (m.map Prod.fst).Pairwise (· < ·)

/-- The byte last written at offset `a`; `none` where nothing was written (R32, 93_implementation_defined.md U4). -/
def Memory.read : Memory → Nat → Option Byte
  | [], _ => none
  | (b, v) :: rest, a => if a = b then some v else Memory.read rest a

/-- Byte `v` put at offset `a`, keeping the canonical form. -/
def Memory.insert : Memory → Nat → Byte → Memory
  | [], a, v => [(a, v)]
  | (b, w) :: rest, a, v =>
    if a < b then (a, v) :: (b, w) :: rest
    else if a = b then (a, v) :: rest
    else (b, w) :: Memory.insert rest a v

end Sys2Proof.Machine
end

