-- ==== Sys2Proof/Machine/Operands.lean ====
section
/-! DEFINITION. Operand assembly (30_encoding.md R74): every operand field is an unsigned number taken as it
stands; and the CONFIG register's fields as the numbers the commands use (42_config.md R120). -/

namespace Sys2Proof.Machine

/-- The MASK field of CFG_SET as a mask request: 0 .. 7 force that mask, 0xF is automatic, 8 .. 14 are illegal
(42_config.md R123). -/
def maskReqOfField (mask : BitVec 4) : Option MaskReq :=
  if h : mask.toNat < 8 then some (.forced ⟨mask.toNat, h⟩)
  else if mask.toNat = 15 then some .auto
  else none

/-- A mask request as the four bits of CONFIG.MASK_REQ (10_state.md R25). -/
def MaskReq.field : MaskReq → BitVec 4
  | .auto => 0xF
  | .forced m => BitVec.ofNat 4 m.val

/-- `x[CONFIG]`: VERSION [5:0], ECL [9:8], MASK_REQ [15:12], the rest 0 (R25). -/
def configWord (s : State) : Word :=
  (0#16) ++ s.maskReq.field ++ (0#2) ++ eclToBits s.ecl ++ (0#2) ++ s.version

/-- `v = CONFIG.VERSION` as a number (42_config.md R120). -/
def State.v (s : State) : Nat := s.version.toNat

/-- The low `n` bits of `value`, most significant first: what BB_APPEND appends (41_bitbuffer.md R103). -/
def bitsMsbFirst (n : Nat) (value : BitVec 16) : List Bool :=
  (List.range n).map fun i => value.getLsbD (n - 1 - i)

end Sys2Proof.Machine
end

