-- ==== Sys2Proof/Machine/Rom.lean ====
section
/-! DEFINITION. The geometry functions and lookup tables of 42_config.md (R124 to R135), read-only constants
that no command writes (00_scope.md R7). A version is a number; the functions mean what the spec says for
versions 1 .. 40, and every table entry of another number reads 0 (log 15). -/

namespace Sys2Proof.Machine

/-- `SIZE(v) = 4·v + 17`, the side of the grid (R124). -/
def side (v : Nat) : Nat := 4 * v + 17

/-- `NUM_ALIGN(v)`, the number of alignment coordinates (R125). -/
def numAlign (v : Nat) : Nat := if v = 1 then 0 else v / 7 + 2

/-- `RAW_MODULES(v)`, the number of data modules (R126). -/
def rawModules (v : Nat) : Nat :=
  let n := v / 7 + 2
  (16 * v + 128) * v + 64
    - (if v ≥ 2 then (25 * n - 10) * n - 55 else 0)
    - (if v ≥ 7 then 36 else 0)

/-- `REM_BITS(v)`, the number of remainder modules (R127). -/
def remBits (v : Nat) : Nat := rawModules v % 8

/-- `RAW_CW(v)`, the total codeword count (R128). -/
def rawCw (v : Nat) : Nat := rawModules v / 8

/-- The columns of `ECC_PER_BLOCK[e][v]` for v = 1 .. 40, ten versions a line (R132). -/
def eccPerBlockTable : Ecl → List Nat
  | .low =>
    [7, 10, 15, 20, 26, 18, 20, 24, 30, 18]
    ++ [20, 24, 26, 30, 22, 24, 28, 30, 28, 28]
    ++ [28, 28, 30, 30, 26, 28, 30, 30, 30, 30]
    ++ [30, 30, 30, 30, 30, 30, 30, 30, 30, 30]
  | .medium =>
    [10, 16, 26, 18, 24, 16, 18, 22, 22, 26]
    ++ [30, 22, 22, 24, 24, 28, 28, 26, 26, 26]
    ++ [26, 28, 28, 28, 28, 28, 28, 28, 28, 28]
    ++ [28, 28, 28, 28, 28, 28, 28, 28, 28, 28]
  | .quartile =>
    [13, 22, 18, 26, 18, 24, 18, 22, 20, 24]
    ++ [28, 26, 24, 20, 30, 24, 28, 28, 26, 30]
    ++ [28, 30, 30, 30, 30, 28, 30, 30, 30, 30]
    ++ [30, 30, 30, 30, 30, 30, 30, 30, 30, 30]
  | .high =>
    [17, 28, 22, 16, 22, 28, 26, 26, 24, 28]
    ++ [24, 28, 22, 24, 24, 30, 28, 28, 26, 28]
    ++ [30, 24, 30, 30, 30, 30, 30, 30, 30, 30]
    ++ [30, 30, 30, 30, 30, 30, 30, 30, 30, 30]

/-- The columns of `NUM_BLOCKS[e][v]` for v = 1 .. 40, ten versions a line (R133). -/
def numBlocksTable : Ecl → List Nat
  | .low =>
    [1, 1, 1, 1, 1, 2, 2, 2, 2, 4]
    ++ [4, 4, 4, 4, 6, 6, 6, 6, 7, 8]
    ++ [8, 9, 9, 10, 12, 12, 12, 13, 14, 15]
    ++ [16, 17, 18, 19, 19, 20, 21, 22, 24, 25]
  | .medium =>
    [1, 1, 1, 2, 2, 4, 4, 4, 5, 5]
    ++ [5, 8, 9, 9, 10, 10, 11, 13, 14, 16]
    ++ [17, 17, 18, 20, 21, 23, 25, 26, 28, 29]
    ++ [31, 33, 35, 37, 38, 40, 43, 45, 47, 49]
  | .quartile =>
    [1, 1, 2, 2, 4, 4, 6, 6, 8, 8]
    ++ [8, 10, 12, 16, 12, 17, 16, 18, 21, 20]
    ++ [23, 23, 25, 27, 29, 34, 34, 35, 38, 40]
    ++ [43, 45, 48, 51, 53, 56, 59, 62, 65, 68]
  | .high =>
    [1, 1, 2, 4, 4, 4, 5, 6, 8, 8]
    ++ [11, 11, 16, 16, 18, 16, 19, 21, 25, 25]
    ++ [25, 34, 30, 32, 35, 37, 40, 42, 45, 48]
    ++ [51, 54, 57, 60, 63, 66, 70, 74, 77, 81]

/-- `ALIGN_POS[v]` for v = 1 .. 40, five versions a line (R135). -/
def alignPosTable : List (List Nat) :=
  [[], [6, 18], [6, 22], [6, 26], [6, 30]]
  ++ [[6, 34], [6, 22, 38], [6, 24, 42], [6, 26, 46], [6, 28, 50]]
  ++ [[6, 30, 54], [6, 32, 58], [6, 34, 62], [6, 26, 46, 66], [6, 26, 48, 70]]
  ++ [[6, 26, 50, 74], [6, 30, 54, 78], [6, 30, 56, 82], [6, 30, 58, 86], [6, 34, 62, 90]]
  ++ [[6, 28, 50, 72, 94], [6, 26, 50, 74, 98], [6, 30, 54, 78, 102], [6, 28, 54, 80, 106], [6, 32, 58, 84, 110]]
  ++ [[6, 30, 58, 86, 114], [6, 34, 62, 90, 118], [6, 26, 50, 74, 98, 122], [6, 30, 54, 78, 102, 126], [6, 26, 52, 78, 104, 130]]
  ++ [[6, 30, 56, 82, 108, 134], [6, 34, 60, 86, 112, 138], [6, 30, 58, 86, 114, 142], [6, 34, 62, 90, 118, 146], [6, 30, 54, 78, 102, 126, 150]]
  ++ [[6, 24, 50, 76, 102, 128, 154], [6, 28, 54, 80, 106, 132, 158], [6, 32, 58, 84, 110, 136, 162], [6, 26, 54, 82, 110, 138, 166], [6, 30, 58, 86, 114, 142, 170]]

/-- Entry `v` of a column whose first entry is version 1's. -/
def romEntry (column : List Nat) (v : Nat) : Nat := if v = 0 then 0 else column.getD (v - 1) 0

/-- `ECC_PER_BLOCK[e][v]` (R132). -/
def eccPerBlock (v : Nat) (e : Ecl) : Nat := romEntry (eccPerBlockTable e) v

/-- `NUM_BLOCKS[e][v]` (R133). -/
def numBlocks (v : Nat) (e : Ecl) : Nat := romEntry (numBlocksTable e) v

/-- `ALIGN_POS[v]` (R135). -/
def alignPos (v : Nat) : List Nat := if v = 0 then [] else alignPosTable.getD (v - 1) []

/-- `DATA_CW(v, e)`, the data codeword count (R129). -/
def dataCw (v : Nat) (e : Ecl) : Nat := rawCw v - eccPerBlock v e * numBlocks v e

/-- `numShortBlocks` (R130). -/
def numShortBlocks (v : Nat) (e : Ecl) : Nat := numBlocks v e - rawCw v % numBlocks v e

/-- `shortBlockDataLen` (R130). -/
def shortBlockDataLen (v : Nat) (e : Ecl) : Nat := rawCw v / numBlocks v e - eccPerBlock v e

/-- The data length of block `i` (R130). -/
def blockDataLen (v : Nat) (e : Ecl) (i : Nat) : Nat :=
  if i < numShortBlocks v e then shortBlockDataLen v e else shortBlockDataLen v e + 1

/-- `OUT_LEN(v)`, the size of the output image in bytes (R131). -/
def outLen (v : Nat) : Nat := (side v ^ 2 + 7) / 8 + 1

end Sys2Proof.Machine
end

