-- ==== Sys2Proof/Machine/Ops.lean ====
section
/-! DEFINITION. The operations every command shares: how a command's body ends, raising an error
(60_exceptions.md R303), finishing a command, reading the BitBuffer and the grid, writing OUT, and reset. -/

namespace Sys2Proof.Machine

/-- How a command's body ends when it does not complete. -/
inductive Stop where
  /-- `raise E` (00_scope.md R9) -/
  | raised (e : ErrCode)
  /-- an access the spec says does not exist (20_memory.md R59, log 6) -/
  | fault (f : Fault)
deriving DecidableEq, Repr

/-- What the pseudocode of a command rule does after its reserved-bit check: a new state, or a stop. -/
abbrev Body := Except Stop State

/-- `raise E(w)` (60_exceptions.md R303), QR-CORE's one way of taking an exception: ERR is the code, ERR_CMD the
command word, and InternalInconsistency also sets FAULT. Nothing else changes (R301); control stays with
the host, and there is no handler and no return (R307, R308). -/
def raiseError (e : ErrCode) (w : Word) (s : State) : State :=
  { s with err := e, errCmd := w, fault := s.fault || decide (e = .internalInconsistency) }

/-- The end of command word `w`, issued in state `s`: a completed body gives its state; a raised error is raised
on `s` itself, so that nothing the body did remains (R301; for ENCODE this is the snapshot of
46_output.md R262, log 8). -/
def finish (w : Word) (s : State) (r : Body) : Host.Outcome State Fault Refusal :=
  match r with
  | .ok t => .next t
  | .error (.raised e) => .next (raiseError e w s)
  | .error (.fault f) => .fault f

/-- Bit `p` of the BitBuffer; positions from BB_LEN on read 0 (41_bitbuffer.md R101). -/
def bbBit (bb : List Bool) (p : Nat) : Bool := bb.getD p false

/-- `BBbyte(i)`: the bits `8i .. 8i + 7`, the earliest the most significant (R101). -/
def bbByte (bb : List Bool) (i : Nat) : Byte :=
  BitVec.ofNat 8 ((List.range 8).map fun j => (bbBit bb (8 * i + j)).toNat * 2 ^ (7 - j)).sum

/-- `GRID[x, y]`: column `x`, row `y` (10_state.md R30). -/
def Grid.get (g : Grid) (x y : Nat) : Cell := (g.getD y []).getD x .unset

/-- Is `GRID[x, y]` dark? An UNSET cell is not. -/
def Grid.darkAt (g : Grid) (x y : Nat) : Bool :=
  match g.get x y with
  | .set dark _ => dark
  | .unset => false

/-- A cell with another colour and the same function bit. -/
def Cell.withDark (b : Bool) : Cell → Cell
  | .set _ func => .set b func
  | .unset => .unset

/-- `GRID[x, y].dark <- b`. -/
def Grid.setDark (g : Grid) (x y : Nat) (b : Bool) : Grid :=
  g.modify y fun row => row.modify x (Cell.withDark b)

/-- The grid of `n` rows and `n` columns whose cell at column `x`, row `y` is `f x y`. -/
def Grid.tabulate (n : Nat) (f : Nat → Nat → Cell) : Grid :=
  (List.range n).map fun y => (List.range n).map fun x => f x y

/-- `MemWrite(OUT, a, 1, v)` (00_scope.md R9): one byte, at an offset the buffer has (20_memory.md R59). -/
def writeOut (s : State) (a : Nat) (v : Byte) : Body :=
  if a < s.outCap then .ok { s with out := Memory.insert s.out a v }
  else .error (.fault (.outOfBuffer a))

/-- `MemWrite` of each byte in turn, from offset `a` up. -/
def writeOutBytes (s : State) (a : Nat) : List Byte → Body
  | [] => .ok s
  | v :: rest => (writeOut s a v).bind fun t => writeOutBytes t (a + 1) rest

/-- Host-asserted reset (70_reset_and_hazards.md R340): every piece of core state takes its reset value; OUT and
OUT_CAP are unchanged, and so is what the host has still to write (log 3). -/
def hostReset (s : State) : State :=
  { State.reset with out := s.out, outCap := s.outCap, port := s.port }

end Sys2Proof.Machine
end

