-- ==== Sys2Proof/Machine/BitBuffer.lean ====
section
/-! DEFINITION. The BitBuffer commands BB_CLEAR and BB_APPEND (41_bitbuffer.md). -/

namespace Sys2Proof.Machine

/-- The body of BB_CLEAR (R102). -/
def bbClearBody (s : State) : Body :=
  .ok (complete (invalidateCW { s with bb := [] }))

/-- BB_CLEAR empties the BitBuffer and invalidates the later stages (R102). -/
def execBbClear (s : State) : Host.Outcome State Fault Refusal :=
  finish (encode .bbClear) s (bbClearBody s)

/-- The body of BB_APPEND (R103): the operand check, the capacity check, then the append. -/
def bbAppendBody (nbits : BitVec 5) (value : BitVec 16) (s : State) : Body :=
  if nbits.toNat > 16 ∨ value.toNat ≥ 2 ^ nbits.toNat then .error (.raised .illegalCommand)
  else if s.bb.length + nbits.toNat > Config.bbCapBits then .error (.raised .internalInconsistency)
  else .ok (complete (invalidateCW { s with bb := s.bb ++ bitsMsbFirst nbits.toNat value }))

/-- BB_APPEND appends the low NBITS bits of VALUE, most significant first, and invalidates the later stages
(R103). -/
def execBbAppend (nbits : BitVec 5) (value : BitVec 16) (s : State) : Host.Outcome State Fault Refusal :=
  finish (encode (.bbAppend nbits value)) s (bbAppendBody nbits value s)

end Sys2Proof.Machine
end

