-- ==== Sys2Proof/Machine/Configure.lean ====
section
/-! DEFINITION. The configuration command CFG_SET (42_config.md R121). -/

namespace Sys2Proof.Machine

/-- The body of CFG_SET (R121): the MASK check, then the VERSION check, then the write of all three fields. -/
def cfgSetBody (mask : BitVec 4) (ecl : Ecl) (version : BitVec 6) (s : State) : Body :=
  match maskReqOfField mask with
  | none => .error (.raised .illegalCommand)
  | some req =>
    if version.toNat < Config.vMin ∨ version.toNat > Config.vMax then .error (.raised .invalidVersionRange)
    else .ok (complete (invalidateCW { s with version := version, ecl := ecl, maskReq := req }))

/-- CFG_SET writes VERSION, ECL and MASK_REQ together and invalidates the later stages (R121). -/
def execCfgSet (mask : BitVec 4) (ecl : Ecl) (version : BitVec 6) (s : State) :
    Host.Outcome State Fault Refusal :=
  finish (encode (.cfgSet mask ecl version)) s (cfgSetBody mask ecl version s)

end Sys2Proof.Machine
end

