-- ==== Sys2Proof/Machine/Layout.lean ====
section
/-! DEFINITION. The geometry of the symbol (44_grid_layout.md R180 to R192): which modules are function modules,
their colours, the version word and its places, the format area, and the zigzag order. Coordinates are
(x, y) = (column, row) with (0, 0) at the top left (00_scope.md R10). -/

namespace Sys2Proof.Machine

/-- `|a - b|` on natural numbers. -/
def absDiff (a b : Nat) : Nat := (a - b) + (b - a)

/-- Is `(x, y)` in the square of radius `r` about the centre `c`? -/
def within (r : Nat) (x y : Nat) (c : Nat × Nat) : Bool :=
  decide (absDiff x c.1 ≤ r) && decide (absDiff y c.2 ≤ r)

/-- `max(|x - cx|, |y - cy|)` (R181, R184). -/
def ringOf (x y : Nat) (c : Nat × Nat) : Nat := max (absDiff x c.1) (absDiff y c.2)

/-- The centres of the alignment patterns: all pairs of coordinates but the three on the finders (R184). -/
def alignCentres (v : Nat) : List (Nat × Nat) :=
  let n := numAlign v
  let P := alignPos v
  (List.range n).flatMap fun i => (List.range n).filterMap fun j =>
    if (i = 0 ∧ j = 0) ∨ (i = 0 ∧ j = n - 1) ∨ (i = n - 1 ∧ j = 0) then none
    else some (P.getD i 0, P.getD j 0)

/-- The alignment pattern whose 5 by 5 block holds `(x, y)`, if any (R184). -/
def alignBlock? (v x y : Nat) : Option (Nat × Nat) := (alignCentres v).find? (within 2 x y)

/-- The top-right version area of versions 7 and up (R180, R188). -/
def inVersionTopRight (v x y : Nat) : Bool :=
  decide (v ≥ 7) && decide (side v - 11 ≤ x) && decide (x ≤ side v - 9) && decide (y ≤ 5)

/-- The bottom-left version area of versions 7 and up (R180, R188). -/
def inVersionBottomLeft (v x y : Nat) : Bool :=
  decide (v ≥ 7) && decide (x ≤ 5) && decide (side v - 11 ≤ y) && decide (y ≤ side v - 9)

/-- The corner rectangles of R180: finder pattern, separator and format area. -/
def inCorner (v x y : Nat) : Bool :=
  (decide (x ≤ 8) && decide (y ≤ 8))
  || (decide (side v - 8 ≤ x) && decide (x ≤ side v - 1) && decide (y ≤ 8))
  || (decide (x ≤ 8) && decide (side v - 8 ≤ y) && decide (y ≤ side v - 1))

/-- `(x, y) ∈ FUNC(v)`, for `(x, y)` in the grid (R180). -/
def isFunc (v x y : Nat) : Bool :=
  decide (x = 6) || decide (y = 6) || inCorner v x y || (alignBlock? v x y).isSome
  || inVersionTopRight v x y || inVersionBottomLeft v x y

/-- The finder centres: top left, top right, bottom left (R181). -/
def finderCentres (v : Nat) : List (Nat × Nat) := [(3, 3), (side v - 4, 3), (3, side v - 4)]

/-- The finder whose region (pattern and separator) holds `(x, y)`, if any (R181). -/
def finder? (v x y : Nat) : Option (Nat × Nat) := (finderCentres v).find? (within 4 x y)

/-- One step of the division of R187. -/
def versionRemStep (rem : Nat) : Nat := (rem <<< 1) ^^^ ((rem >>> 11) * 0x1F25)

/-- `n` steps of a division from `rem`. -/
def iterate (f : Nat → Nat) : Nat → Nat → Nat
  | 0, rem => rem
  | n + 1, rem => iterate f n (f rem)

/-- `VBITS(v)`, the 18-bit version word (R187). -/
def versionBits (v : Nat) : Nat := (v <<< 12) ||| iterate versionRemStep 12 v

/-- The format-area module of copy A that holds format bit `i` (R185). -/
def formatModuleA (i : Nat) : Nat × Nat :=
  if i ≤ 5 then (8, i)
  else if i = 6 then (8, 7)
  else if i = 7 then (8, 8)
  else if i = 8 then (7, 8)
  else (14 - i, 8)

/-- The format-area module of copy B that holds format bit `i` (R185). -/
def formatModuleB (v i : Nat) : Nat × Nat :=
  if i ≤ 7 then (side v - 1 - i, 8) else (8, side v - 15 + i)

/-- The dark module `(8, S - 8)` (R185, 45_mask_select.md R224). -/
def darkModule (v : Nat) : Nat × Nat := (8, side v - 8)

/-- The 31 modules of the format area (R185). -/
def formatArea (v : Nat) : List (Nat × Nat) :=
  (List.range 15).map formatModuleA ++ (List.range 15).map (formatModuleB v) ++ [darkModule v]

/-- `FCOLOUR(v, x, y)`, the colour of a function module after GRID_BUILD: the first region of R189 that holds
it decides (finder R181, alignment R184, version R188, format R185, timing R183). -/
def fcolour (v x y : Nat) : Bool :=
  match finder? v x y with
  | some c => decide (ringOf x y c ≠ 2) && decide (ringOf x y c ≠ 4)
  | none =>
    match alignBlock? v x y with
    | some c => decide (ringOf x y c ≠ 1)
    | none =>
      if inVersionTopRight v x y then (versionBits v).testBit (3 * y + (x - (side v - 11)))
      else if inVersionBottomLeft v x y then (versionBits v).testBit (3 * x + (y - (side v - 11)))
      else if (formatArea v).contains (x, y) then false
      else if x = 6 then decide (y % 2 = 0)
      else decide (x % 2 = 0)

/-- The right columns of the zigzag's column pairs, from `right` down, skipping the timing column (R191); the
first argument bounds the number of rounds. -/
def pairColumns : Nat → Nat → List Nat
  | 0, _ => []
  | n + 1, right =>
    if right < 1 then []
    else
      let r := if right = 6 then 5 else right
      r :: pairColumns n (r - 2)

/-- The data modules of one column pair in the order of R191: upward or downward, right column first. -/
def pairModules (v right : Nat) : List (Nat × Nat) :=
  let S := side v
  let upward := (right + 1) &&& 2 = 0
  (List.range S).flatMap fun vert =>
    let y := if upward then S - 1 - vert else vert
    [(right, y), (right - 1, y)].filter fun p => !isFunc v p.1 p.2

/-- `Z(v)`, the zigzag order of the data modules (R191). -/
def zigzag (v : Nat) : List (Nat × Nat) := (pairColumns (side v) (side v - 1)).flatMap (pairModules v)

/-- Codeword bit `k`: bit `7 - (k mod 8)` of `CW[k div 8]` (R192). -/
def codewordBit (cw : List Byte) (k : Nat) : Bool := (cw.getD (k / 8) 0).getLsbD (7 - k % 8)

/-- The grid before data placement: function modules in their colours, data modules light (R195). -/
def baseGrid (v : Nat) : Grid :=
  Grid.tabulate (side v) fun x y => if isFunc v x y then .set (fcolour v x y) true else .set false false

/-- One write of the placement loop of R195: module `p` is `Z(v)[k]`. -/
def placeBit (cw : List Byte) (g : Grid) (pk : (Nat × Nat) × Nat) : Grid :=
  if pk.2 < 8 * cw.length then g.setDark pk.1.1 pk.1.2 (codewordBit cw pk.2) else g

/-- The PLACED grid of version `v` and codewords `cw` (R195). -/
def placedGrid (v : Nat) (cw : List Byte) : Grid :=
  (zigzag v).zipIdx.foldl (placeBit cw) (baseGrid v)

end Sys2Proof.Machine
end

