-- ==== Sys2Proof/Machine/GridBuild.lean ====
section
/-! DEFINITION. The layout command GRID_BUILD (44_grid_layout.md R195). -/

namespace Sys2Proof.Machine

/-- The body of GRID_BUILD (R195). -/
def gridBuildBody (s : State) : Body :=
  if s.cwValid = false then .error (.raised .stageError)
  else if s.cw.length ≠ rawCw s.v then .error (.raised .internalInconsistency)
  else .ok (complete (clearMaskResults { s with grid := placedGrid s.v s.cw, gridState := .placed }))

/-- GRID_BUILD builds the unmasked grid from CW (R195). -/
def execGridBuild (s : State) : Host.Outcome State Fault Refusal :=
  finish (encode .gridBuild) s (gridBuildBody s)

end Sys2Proof.Machine
end

