-- ==== Sys2Proof/Machine/Penalty.lean ====
section
/-! DEFINITION. The penalty evaluator (45_mask_select.md R225 to R229): the four rules over the lines of a grid.
A grid here is its dark bits, `d x y`, and its side `S`; a line is a list of colours, `true` for dark. -/

namespace Sys2Proof.Machine

/-- The maximal runs of a line, each with its colour and length (R225). -/
def runs : List Bool → List (Bool × Nat)
  | [] => []
  | c :: cs =>
    match runs cs with
    | [] => [(c, 1)]
    | (d, n) :: rest => if c = d then (d, n + 1) :: rest else (c, 1) :: (d, n) :: rest

/-- Row `y`: the cells `(0, y) .. (S - 1, y)`. -/
def rowLine (d : Nat → Nat → Bool) (S y : Nat) : List Bool := (List.range S).map fun x => d x y

/-- Column `x`: the cells `(x, 0) .. (x, S - 1)`. -/
def colLine (d : Nat → Nat → Bool) (S x : Nat) : List Bool := (List.range S).map fun y => d x y

/-- The `2S` lines of a grid: its rows and its columns. -/
def gridLines (d : Nat → Nat → Bool) (S : Nat) : List (List Bool) :=
  (List.range S).map (rowLine d S) ++ (List.range S).map (colLine d S)

/-- The score of one run (R225). -/
def runScore (r : Nat) : Nat := if r ≥ 5 then Config.n1 + (r - 5) else 0

/-- Rule (a) on one line (R225). -/
def lineRunScore (line : List Bool) : Nat := ((runs line).map fun r => runScore r.2).sum

/-- `PA(G)`, rule (a) (R225). -/
def penaltyRuns (d : Nat → Nat → Bool) (S : Nat) : Nat := ((gridLines d S).map lineRunScore).sum

/-- Do the four modules of the window at `(x, y)` have one colour? (R226) -/
def uniformWindow (d : Nat → Nat → Bool) (x y : Nat) : Bool :=
  d x y == d (x + 1) y && d x y == d x (y + 1) && d x y == d (x + 1) (y + 1)

/-- `NB(G)`, the number of one-coloured 2 by 2 windows (R226). -/
def windowCount (d : Nat → Nat → Bool) (S : Nat) : Nat :=
  ((List.range (S - 1)).map fun y => (List.range (S - 1)).countP fun x => uniformWindow d x y).sum

/-- `PB(G)`, rule (b) (R226). -/
def penaltyWindows (d : Nat → Nat → Bool) (S : Nat) : Nat := Config.n2 * windowCount d S

/-- `S` light modules added before a run list: to its first run if that is light, else as a new run (R227). -/
def padLight (S : Nat) : List (Bool × Nat) → List (Bool × Nat)
  | (false, n) :: rest => (false, n + S) :: rest
  | rs => (false, S) :: rs

/-- The runs of a line with `S` light modules added before and after it: every even index is light (R227). -/
def paddedRunList (S : Nat) (line : List Bool) : List (Bool × Nat) :=
  (padLight S (padLight S (runs line)).reverse).reverse

/-- The padded run lengths of a line of length `S` (R227). -/
def paddedRuns (S : Nat) (line : List Bool) : List Nat := (paddedRunList S line).map Prod.snd

/-- What one even index `i ≥ 6` of a padded run list adds to `FC_L` (R227). -/
def finderLikeAt (r : List Nat) (i : Nat) : Nat :=
  let at' := fun k => r.getD k 0
  let n := at' (i - 5)
  if n > 0 ∧ at' (i - 4) = n ∧ at' (i - 3) = 3 * n ∧ at' (i - 2) = n ∧ at' (i - 1) = n then
    (if at' i ≥ 4 * n ∧ at' (i - 6) ≥ n then 1 else 0) + (if at' (i - 6) ≥ 4 * n ∧ at' i ≥ n then 1 else 0)
  else 0

/-- `FC_L`, rule (c) on one line (R227). -/
def lineFinderCount (S : Nat) (line : List Bool) : Nat :=
  let r := paddedRuns S line
  ((List.range r.length).map fun i => if i % 2 = 0 ∧ 6 ≤ i then finderLikeAt r i else 0).sum

/-- `NC(G)`, the finder-like patterns of all lines (R227). -/
def finderCount (d : Nat → Nat → Bool) (S : Nat) : Nat := ((gridLines d S).map (lineFinderCount S)).sum

/-- `PC(G)`, rule (c) (R227). -/
def penaltyFinders (d : Nat → Nat → Bool) (S : Nat) : Nat := Config.n3 * finderCount d S

/-- The number of dark modules (R228). -/
def darkCount (d : Nat → Nat → Bool) (S : Nat) : Nat :=
  ((List.range S).map fun y => (rowLine d S y).countP id).sum

/-- `k = ⌈|20·dark - 10·total| / total⌉ - 1` (R228). -/
def darkRatioSteps (dark total : Nat) : Nat :=
  let dev := ((20 * dark : Int) - (10 * total : Int)).natAbs
  (dev + total - 1) / total - 1

/-- `PD(G)`, rule (d) (R228). -/
def penaltyRatio (d : Nat → Nat → Bool) (S : Nat) : Nat := Config.n4 * darkRatioSteps (darkCount d S) (S ^ 2)

/-- `Penalty(G)` (R229). -/
def penaltyOf (d : Nat → Nat → Bool) (S : Nat) : Nat :=
  penaltyRuns d S + penaltyWindows d S + penaltyFinders d S + penaltyRatio d S

/-- The penalty of a grid of side `S` (R229). -/
def gridPenalty (g : Grid) (S : Nat) : Nat := penaltyOf g.darkAt S

end Sys2Proof.Machine
end

