-- ==== Sys2Proof/Machine/MaskSelect.lean ====
section
/-! DEFINITION. The mask selector (45_mask_select.md): masks (R220, R221), format information (R222 to R224),
selection (R230, R231) and MASK_SELECT (R232). -/

namespace Sys2Proof.Machine

/-- `MC_m(x, y)`: does mask `m` invert data module `(x, y)`? (R220) -/
def maskCond (m : Fin 8) (x y : Nat) : Bool :=
  match m with
  | 0 => decide ((x + y) % 2 = 0)
  | 1 => decide (y % 2 = 0)
  | 2 => decide (x % 3 = 0)
  | 3 => decide ((x + y) % 3 = 0)
  | 4 => decide ((x / 3 + y / 2) % 2 = 0)
  | 5 => decide ((x * y) % 2 + (x * y) % 3 = 0)
  | 6 => decide (((x * y) % 2 + (x * y) % 3) % 2 = 0)
  | 7 => decide (((x + y) % 2 + (x * y) % 3) % 2 = 0)

/-- One cell under mask `m`: a data module is inverted where the mask says so, a function module is untouched
(R221). -/
def maskCell (m : Fin 8) (x y : Nat) : Cell → Cell
  | .set dark func => .set (dark ^^ (!func && maskCond m x y)) func
  | .unset => .unset

/-- `Mask(P, m)` on the used cells of a grid of side `S` (R221). -/
def maskGrid (S : Nat) (P : Grid) (m : Fin 8) : Grid :=
  Grid.tabulate S fun x y => maskCell m x y (P.get x y)

/-- `FC(e)`, the symbol's own code of a level (R222). -/
def levelCode : Ecl → Nat
  | .low => 1
  | .medium => 0
  | .quartile => 3
  | .high => 2

/-- One step of the division of R222. -/
def formatRemStep (rem : Nat) : Nat := (rem <<< 1) ^^^ ((rem >>> 9) * 0x537)

/-- `FBITS(e, m)`, the 15-bit format word (R222). -/
def formatBits (e : Ecl) (m : Fin 8) : Nat :=
  let data := (levelCode e <<< 3) ||| m.val
  ((data <<< 10) ||| iterate formatRemStep 10 data) ^^^ 0x5412

/-- Format bit `i` written to its two modules (R223). -/
def stampBit (v bits : Nat) (g : Grid) (i : Nat) : Grid :=
  let a := formatModuleA i
  let b := formatModuleB v i
  (g.setDark a.1 a.2 (bits.testBit i)).setDark b.1 b.2 (bits.testBit i)

/-- `StampFormat(G, e, m)`: both copies of the format word, then the dark module (R223, R224). -/
def stampFormat (v : Nat) (g : Grid) (e : Ecl) (m : Fin 8) : Grid :=
  let k := darkModule v
  ((List.range 15).foldl (stampBit v (formatBits e m)) g).setDark k.1 k.2 true

/-- `G_m`: the PLACED grid masked with `m` and stamped (R230). -/
def candidateGrid (v : Nat) (e : Ecl) (P : Grid) (m : Fin 8) : Grid :=
  stampFormat v (maskGrid (side v) P m) e m

/-- One candidate of a selection: its mask, its grid and its score (R230). -/
structure Candidate where
  mask : Fin 8
  grid : Grid
  score : Nat
deriving DecidableEq, Repr

/-- Candidate `m`: `G_m` and `s_m = Penalty(G_m)`, from the same PLACED grid as every other (R230). -/
def candidate (v : Nat) (e : Ecl) (P : Grid) (m : Fin 8) : Candidate :=
  let g := candidateGrid v e P m
  { mask := m, grid := g, score := gridPenalty g (side v) }

/-- The first candidate of R231: mask 0 in automatic mode, the forced mask otherwise. -/
def firstMask : MaskReq → Fin 8
  | .auto => 0
  | .forced m => m

/-- The candidates after the first, in ascending order (R231). -/
def laterMasks : MaskReq → List (Fin 8)
  | .auto => [1, 2, 3, 4, 5, 6, 7]
  | .forced _ => []

/-- The candidate list `M` (R231). -/
def maskCandidates (req : MaskReq) : List (Fin 8) := firstMask req :: laterMasks req

/-- The selection loop after its first round, where `best` is the first candidate: a strictly lower score
replaces the best (R230). -/
def pickBest (best : Candidate) : List Candidate → Candidate
  | [] => best
  | c :: rest => pickBest (if c.score < best.score then c else best) rest

/-- The selection over `M` (R230). -/
def selectMask (v : Nat) (e : Ecl) (P : Grid) (req : MaskReq) : Candidate :=
  pickBest (candidate v e P (firstMask req)) ((laterMasks req).map (candidate v e P))

/-- What PEN_m holds after a selection: `s_m` for a candidate, else 0xFFFFFFFF (R232). -/
def penOf (v : Nat) (e : Ecl) (P : Grid) (req : MaskReq) (m : Fin 8) : Word :=
  if (maskCandidates req).contains m then BitVec.ofNat 32 (candidate v e P m).score else noPenalty

/-- PEN0 .. PEN7 after a selection (R232). -/
def pensOf (v : Nat) (e : Ecl) (P : Grid) (req : MaskReq) : Vector Word 8 :=
  #v[penOf v e P req 0, penOf v e P req 1, penOf v e P req 2, penOf v e P req 3,
     penOf v e P req 4, penOf v e P req 5, penOf v e P req 6, penOf v e P req 7]

/-- The body of MASK_SELECT (R232). -/
def maskSelectBody (s : State) : Body :=
  if s.gridState ≠ .placed then .error (.raised .stageError)
  else
    let best := selectMask s.v s.ecl s.grid s.maskReq
    .ok (complete { s with
      grid := best.grid
      gridState := .final
      selMask := BitVec.ofNat 4 best.mask.val
      penalty := BitVec.ofNat 32 best.score
      pens := pensOf s.v s.ecl s.grid s.maskReq })

/-- MASK_SELECT masks the PLACED grid, stamps format information and keeps the best mask (R232). -/
def execMaskSelect (s : State) : Host.Outcome State Fault Refusal :=
  finish (encode .maskSelect) s (maskSelectBody s)

end Sys2Proof.Machine
end

