-- ==== Sys2Proof/Machine/Gf256.lean ====
section
/-! DEFINITION. Arithmetic in GF(256) (43_reed_solomon.md R150, R151) and the Reed-Solomon divisor and remainder
(R152, R153). Field addition is `^^^`. -/

namespace Sys2Proof.Machine

/-- One round of the loop of R150: `z` doubled and reduced by GF_POLY, then `a` added where bit `i` of `b` is 1. -/
def gmulRound (a b z : Byte) (i : Nat) : Byte :=
  let doubled : BitVec 9 := (z.zeroExtend 9) <<< 1
  let reduced : BitVec 9 := doubled ^^^ (if z.getLsbD 7 then Config.gfPoly else 0)
  let z' : Byte := reduced.truncate 8
  if b.getLsbD i then z' ^^^ a else z'

/-- `gmul(a, b)`: multiplication in GF(256), bits of `b` from 7 down to 0 (R150). -/
def gmul (a b : Byte) : Byte := [7, 6, 5, 4, 3, 2, 1, 0].foldl (gmulRound a b) 0

/-- `exp[i] = α^i` with `α = 0x02`, by repeated multiplication (R151). -/
def gexp : Nat → Byte
  | 0 => 1
  | i + 1 => gmul (gexp i) 0x02

/-- `log a`, the inverse of `exp` on nonzero bytes: the first `i < 255` with `exp[i] = a` (R151). -/
def glog (a : Byte) : Nat := ((List.range 255).find? fun i => gexp i == a).getD 0

/-- The log/antilog form of multiplication (R151). -/
def gmulLog (a b : Byte) : Byte :=
  if a = 0 ∨ b = 0 then 0 else gexp ((glog a + glog b) % 255)

/-- One round of RSDivisor (R152): `D[j] <- gmul(D[j], root) ⊕ D[j + 1]` for `j` rising, where `D[j + 1]` is not
yet overwritten when `D[j]` is; the last entry has no `D[j + 1]`. -/
def divisorRound (root : Byte) : List Byte → List Byte
  | [] => []
  | [a] => [gmul a root]
  | a :: b :: rest => (gmul a root ^^^ b) :: divisorRound root (b :: rest)

/-- `n` rounds of RSDivisor from the root `root`, each followed by `root <- gmul(root, 0x02)` (R152). -/
def divisorRounds : Nat → Byte → List Byte → List Byte
  | 0, _, D => D
  | n + 1, root, D => divisorRounds n (gmul root 0x02) (divisorRound root D)

/-- `RSDivisor(d)` (R152): the coefficients of the generator polynomial below its leading 1, highest first. -/
def rsDivisor (d : Nat) : List Byte := divisorRounds d 1 (List.replicate (d - 1) 0 ++ [1])

/-- One byte of the division (R153): `f <- b ⊕ R[0]`, one shift with zero entering at the end, then
`R[i] <- R[i] ⊕ gmul(D[i], f)`. -/
def remainderRound (D : List Byte) (R : List Byte) (b : Byte) : List Byte :=
  let f := b ^^^ R.headD 0
  List.zipWith (fun r c => r ^^^ gmul c f) (R.tail ++ [0]) D

/-- `RSRemainder(B, D)` (R153): the ECC codewords of the block `B`. -/
def rsRemainder (B D : List Byte) : List Byte :=
  B.foldl (remainderRound D) (List.replicate D.length 0)

end Sys2Proof.Machine
end

