-- ==== Sys2Proof/Machine/ReedSolomon.lean ====
section
/-! DEFINITION. The Reed-Solomon command RS_ENCODE: block split (43_reed_solomon.md R154), interleaving (R155)
and the command itself (R160). -/

namespace Sys2Proof.Machine

/-- `DATA`: the data codewords, the bytes `0 .. DATA_CW - 1` of the BitBuffer (R160, 41_bitbuffer.md R104). -/
def dataCodewords (n : Nat) (bb : List Bool) : List Byte := (List.range n).map (bbByte bb)

/-- Consecutive chunks of the given lengths (R154). -/
def splitBlocks : List Nat → List Byte → List (List Byte)
  | [], _ => []
  | n :: ns, d => d.take n :: splitBlocks ns (d.drop n)

/-- The data lengths of the blocks in order, the short blocks first (R154, 42_config.md R130). -/
def blockLens (v : Nat) (e : Ecl) : List Nat := (List.range (numBlocks v e)).map (blockDataLen v e)

/-- Byte `j` of every list that has one, in order: one turn of the round-robin (R155). -/
def column (blocks : List (List Byte)) (j : Nat) : List Byte := blocks.filterMap fun b => b[j]?

/-- `Interleave(blocks, eccs)` (R155): the data bytes for `j = 0 .. shortLen`, then the ECC bytes for
`j = 0 .. eccLen - 1`. -/
def interleave (shortLen eccLen : Nat) (blocks eccs : List (List Byte)) : List Byte :=
  (List.range (shortLen + 1)).flatMap (column blocks) ++ (List.range eccLen).flatMap (column eccs)

/-- The final codeword sequence of a BitBuffer at version `v` and level `e` (R154, R155, R160). -/
def finalCodewords (v : Nat) (e : Ecl) (bb : List Bool) : List Byte :=
  let blocks := splitBlocks (blockLens v e) (dataCodewords (dataCw v e) bb)
  let D := rsDivisor (eccPerBlock v e)
  interleave (shortBlockDataLen v e) (eccPerBlock v e) blocks (blocks.map fun b => rsRemainder b D)

/-- The body of RS_ENCODE (R160): the length check, then the grid is invalidated and CW is written. -/
def rsEncodeBody (s : State) : Body :=
  if s.bb.length ≠ 8 * dataCw s.v s.ecl then .error (.raised .internalInconsistency)
  else .ok (complete { invalidateGrid s with cw := finalCodewords s.v s.ecl s.bb, cwValid := true })

/-- RS_ENCODE turns the BitBuffer into the final codeword sequence in CW (R160). -/
def execRsEncode (s : State) : Host.Outcome State Fault Refusal :=
  finish (encode .rsEncode) s (rsEncodeBody s)

end Sys2Proof.Machine
end

