-- ==== Sys2Proof/Machine/Output.lean ====
section
/-! DEFINITION. The output commands OUT_WRITE (46_output.md R260, R261) and ENCODE (R262). -/

namespace Sys2Proof.Machine

/-- Module `k` of a grid of side `S` in row-major order; no module lies beyond `S² - 1` (R260). -/
def moduleBit (S : Nat) (g : Grid) (k : Nat) : Bool :=
  decide (k < S ^ 2) && g.darkAt (k % S) (k / S)

/-- Byte `1 + j` of the output image: modules `8j .. 8j + 7`, the earliest the least significant bit, pad bits
0 (R260). -/
def imageByte (S : Nat) (g : Grid) (j : Nat) : Byte :=
  BitVec.ofNat 8 ((List.range 8).map fun b => (moduleBit S g (8 * j + b)).toNat * 2 ^ b).sum

/-- `OUTIMG`, the output image of a grid of version `v`: the header byte and the packed modules (R260). -/
def outImage (v : Nat) (g : Grid) : List Byte :=
  BitVec.ofNat 8 (side v) :: (List.range (outLen v - 1)).map (imageByte (side v) g)

/-- The body of OUT_WRITE (R261). -/
def outWriteBody (s : State) : Body :=
  if s.gridState ≠ .final then .error (.raised .stageError)
  else if s.outCap < outLen s.v then .error (.raised .bufferTooSmall)
  else (writeOutBytes s 0 (outImage s.v s.grid)).map complete

/-- OUT_WRITE copies the FINAL grid to the caller's buffer (R261). -/
def execOutWrite (s : State) : Host.Outcome State Fault Refusal :=
  finish (encode .outWrite) s (outWriteBody s)

/-- The body of ENCODE: the four bodies in order, the first error ending it (R262). -/
def encodeBody (s : State) : Body :=
  (((rsEncodeBody s).bind gridBuildBody).bind maskSelectBody).bind outWriteBody

/-- ENCODE runs the whole pipeline as one atomic command: an error is raised on the state before it, with the
ENCODE word, so nothing of the four bodies remains (R262, log 8). -/
def execEncode (s : State) : Host.Outcome State Fault Refusal :=
  finish (encode .encode) s (encodeBody s)

end Sys2Proof.Machine
end

