-- ==== Sys2Proof/Machine/Dispatch.lean ====
section
/-! DEFINITION. One arm for each command (30_encoding.md R75). `exec` is what a decoded command does; the gate
of STATUS.FAULT, under which no word is decoded, stands in Machine/Port.lean (60_exceptions.md R305, log 7). -/

namespace Sys2Proof.Machine

def exec (i : Instr) (s : State) : Host.Outcome State Fault Refusal :=
  match i with
  | .bbClear => Sys2Proof.Machine.execBbClear s
  | .bbAppend nbits value => Sys2Proof.Machine.execBbAppend nbits value s
  | .cfgSet mask ecl version => Sys2Proof.Machine.execCfgSet mask ecl version s
  | .rsEncode => Sys2Proof.Machine.execRsEncode s
  | .gridBuild => Sys2Proof.Machine.execGridBuild s
  | .maskSelect => Sys2Proof.Machine.execMaskSelect s
  | .outWrite => Sys2Proof.Machine.execOutWrite s
  | .encode => Sys2Proof.Machine.execEncode s

end Sys2Proof.Machine
end

