-- ==== Sys2Proof/Machine/Port.lean ====
section
/-! DEFINITION. The command port (60_exceptions.md R310, 30_encoding.md R76): what one waiting host action does. -/

namespace Sys2Proof.Machine

/-- A command word arrives at the port. Under FAULT it is ignored and not decoded (60_exceptions.md R305); a word
that is no command raises IllegalCommand (30_encoding.md R76); any other word executes. -/
def execWord (w : Word) (s : State) : Host.Outcome State Fault Refusal :=
  if s.fault then .next s
  else
    match decode w with
    | .error _ => .next (raiseError .illegalCommand w s)
    | .ok i => exec i s

/-- One host action: a command word, or reset, which is taken under FAULT too (R305, R340). -/
def serve (a : PortInput) (s : State) : Host.Outcome State Fault Refusal :=
  match a with
  | .command w => execWord w s
  | .reset => .next (hostReset s)

/-- The oldest waiting action is taken from the port and served; with none waiting the core is idle and keeps
all state (R314, log 1). -/
def servePort (s : State) : Host.Outcome State Fault Refusal :=
  match s.port with
  | [] => .next s
  | a :: rest => serve a { s with port := rest }

/-- The state with command word `w` put before everything that waits at the port (log 2). -/
def issueFirst (s : State) (w : Word) : State := { s with port := .command w :: s.port }

end Sys2Proof.Machine
end

