-- ==== Sys2Proof/Machine/Step.lean ====
section
/-! DEFINITION. One step of the machine: one host action at the core's boundary, run to completion (10_state.md
R20, 20_memory.md R61). -/

namespace Sys2Proof.Machine

/-- One step (R20). -/
def step (s : State) : Host.Outcome State Fault Refusal := servePort s

/-- `s` with the command word of `nbits` bits `w` where `step` takes its next one: at the head of the port. -/
def State.withFetchWord (s : State) (nbits w : Nat) : State :=
  issueFirst s (BitVec.ofNat 32 (w % 2 ^ nbits))

end Sys2Proof.Machine
end

