-- ==== Sys2Proof/Machine/ReadPort.lean ====
section
/-! DEFINITION. The host's read port (20_memory.md R50 to R56): the four spaces as functions of State. Reads
change no state (R56); an index out of range reads 0 (R58). -/

namespace Sys2Proof.Machine

/-- REG space: the 32-bit register at index `r` (R55, 10_state.md R23). -/
def readReg (s : State) (r : Nat) : Word :=
  match r with
  | 0x00 => statusWord s
  | 0x01 => configWord s
  | 0x02 => BitVec.ofNat 32 s.bb.length
  | 0x03 => s.errCmd
  | 0x04 => BitVec.ofNat 32 (side s.v)
  | 0x05 => BitVec.ofNat 32 (dataCw s.v s.ecl)
  | 0x06 => BitVec.ofNat 32 (rawCw s.v)
  | 0x07 => BitVec.ofNat 32 (numBlocks s.v s.ecl)
  | 0x08 => BitVec.ofNat 32 (eccPerBlock s.v s.ecl)
  | 0x09 => BitVec.ofNat 32 (outLen s.v)
  | 0x0A => BitVec.ofNat 32 s.cw.length
  | 0x0B => s.selMask.zeroExtend 32
  | 0x0C => s.penalty
  | 0x10 => s.pens[0]
  | 0x11 => s.pens[1]
  | 0x12 => s.pens[2]
  | 0x13 => s.pens[3]
  | 0x14 => s.pens[4]
  | 0x15 => s.pens[5]
  | 0x16 => s.pens[6]
  | 0x17 => s.pens[7]
  | _ => 0

/-- BB space: byte `i` (R51). -/
def readBB (s : State) (i : Nat) : Byte := if i < Config.bbCapBytes then bbByte s.bb i else 0

/-- CW space: byte `i` (R52). -/
def readCW (s : State) (i : Nat) : Byte := s.cw.getD i 0

/-- A cell as its byte: bit 2 set, bit 1 func, bit 0 dark (R54). -/
def Cell.byte : Cell → Byte
  | .unset => 0
  | .set dark func => (0#5) ++ (1#1) ++ BitVec.ofBool func ++ BitVec.ofBool dark

/-- GRID space: index `k` is the cell at column `k mod S`, row `k div S` (R54). -/
def readGrid (s : State) (k : Nat) : Byte :=
  if k < side s.v ^ 2 then (s.grid.get (k % side s.v) (k / side s.v)).byte else 0

/-- OUT, read by the host directly: ordinary host memory (60_exceptions.md R310, R32). -/
def readOut (s : State) (a : Nat) : Option Byte := Memory.read s.out a

end Sys2Proof.Machine
end

