-- ==== Sys2Proof/Safety.lean ====
section
/-! DEFINITION. What the claims speak of: the coherent states (10_state.md R25 to R33), runs of the machine,
and the polynomial reading of a block (43_reed_solomon.md R153). -/

namespace Sys2Proof.Machine

/-- A grid of version `v` all of whose used cells are SET, with `func` exactly on `FUNC(v)` (R30). -/
structure Grid.Drawn (v : Nat) (g : Grid) : Prop where
  rows : g.length = side v
  columns : ∀ row ∈ g, row.length = side v
  cells : ∀ x < side v, ∀ y < side v, ∃ dark, g.get x y = .set dark (isFunc v x y)

/-- The state is coherent: CONFIG is legal (R25), the memories are within their sizes (R29, R32), the stage flags
say what the memories hold (R24, R27, R30), and the mask results are those of the grid (R33). -/
structure State.Coherent (s : State) : Prop where
  version_legal : Config.vMin ≤ s.v ∧ s.v ≤ Config.vMax
  bb_fits : s.bb.length ≤ Config.bbCapBits
  cw_cleared : s.cwValid = false → s.cw = []
  cw_current : s.cwValid = true →
    s.bb.length = 8 * dataCw s.v s.ecl ∧ s.cw = finalCodewords s.v s.ecl s.bb
  grid_needs_cw : s.gridState ≠ .empty → s.cwValid = true
  grid_cleared : s.gridState = .empty → s.grid = []
  grid_placed : s.gridState = .placed → s.grid = placedGrid s.v s.cw
  grid_final : s.gridState = .final →
    s.grid = (selectMask s.v s.ecl (placedGrid s.v s.cw) s.maskReq).grid
    ∧ s.selMask = BitVec.ofNat 4 (selectMask s.v s.ecl (placedGrid s.v s.cw) s.maskReq).mask.val
    ∧ s.penalty = BitVec.ofNat 32 (selectMask s.v s.ecl (placedGrid s.v s.cw) s.maskReq).score
    ∧ s.pens = pensOf s.v s.ecl (placedGrid s.v s.cw) s.maskReq
  results_cleared : s.gridState ≠ .final → s.selMask = noMask ∧ s.penalty = noPenalty ∧ s.pens = noPens
  err_produced : s.err ≠ .dataTooLong ∧ s.err ≠ .invalidSegment
  fault_iff : s.fault = true ↔ s.err = .internalInconsistency
  out_canonical : Memory.wf s.out
  out_in_buffer : ∀ c ∈ s.out, c.1 < s.outCap

/-- `t` is reached from `s` by steps that each answer a next state. -/
inductive Reaches (s : State) : State → Prop where
  | refl : Reaches s s
  | step {t u : State} (h : Reaches s t) (hu : step t = .next u) : Reaches s u

/-- A power-on state: reset, with any output buffer the host gives and any actions the host has to take
(70_reset_and_hazards.md R340, R341). -/
def PowerOn (s : State) : Prop :=
  s = hostReset s ∧ Memory.wf s.out ∧ ∀ c ∈ s.out, c.1 < s.outCap

/-- The value at `x` of the polynomial whose coefficients are `p`, first byte the highest (R153). -/
def polyEval (x : Byte) (p : List Byte) : Byte := p.foldl (fun acc c => gmul acc x ^^^ c) 0

end Sys2Proof.Machine
end

