-- ==== Sys2Proof/Certificates/Slice0/Obligations.lean ====
section
/-! DEFINITION. The statements for the provers, file by file of the spec. A statement about `exec` has the
premise `s.fault = false` where it says that a command has its effect: under FAULT no word reaches `exec`
(60_exceptions.md R305, log 7). A record update says the whole frame: every field it does not name is
unchanged. -/

open Sys2Proof Sys2Proof.Machine

/-! ### Encoding (30_encoding.md) -/

/-- Decoding the word of a well-formed command gives that command back, with every operand (R70 to R75). -/
def Obligations.DecodeOfEncodeIsTheCommand : Prop :=
  ∀ i : Instr, i.wellFormed = true → decode (encode i) = .ok i

/-- A word that decodes is the word of the command it decodes to, which is well formed: no bit of a word is
dropped (R71 to R74, R76). -/
def Obligations.EncodeOfDecodeIsTheWord : Prop :=
  ∀ (w : Word) (i : Instr), decode w = .ok i → i.wellFormed = true ∧ encode i = w

/-- R76's three tests, in its order, on the word as a number. -/
def Obligations.RejectedWordsAreRejectedInOrder : Prop :=
  ∀ w : Word,
    (w.toNat / 2 ^ 24 ∉ [0x01, 0x02, 0x10, 0x20, 0x30, 0x40, 0x50, 0x60] → decode w = .error .unassignedOpcode)
    ∧ (w.toNat / 2 ^ 24 ∈ [0x01, 0x20, 0x30, 0x40, 0x50, 0x60] → w.toNat % 2 ^ 24 ≠ 0 →
        decode w = .error .reservedField)
    ∧ (w.toNat / 2 ^ 24 = 0x02 → w.toNat / 2 ^ 21 % 2 ^ 3 ≠ 0 → decode w = .error .reservedField)
    ∧ (w.toNat / 2 ^ 24 = 0x10 →
        (w.toNat / 2 ^ 16 % 2 ^ 8 ≠ 0 ∨ w.toNat / 2 ^ 10 % 2 ^ 2 ≠ 0 ∨ w.toNat / 2 ^ 6 % 2 ^ 2 ≠ 0) →
        decode w = .error .reservedField)
    ∧ (w.toNat / 2 ^ 24 = 0x02 → w.toNat / 2 ^ 21 % 2 ^ 3 = 0 →
        (w.toNat / 2 ^ 16 % 2 ^ 5 > 16 ∨ w.toNat % 2 ^ 16 ≥ 2 ^ (w.toNat / 2 ^ 16 % 2 ^ 5)) →
        decode w = .error .illegalOperand)
    ∧ (w.toNat / 2 ^ 24 = 0x10 → w.toNat / 2 ^ 16 % 2 ^ 8 = 0 → w.toNat / 2 ^ 10 % 2 ^ 2 = 0 →
        w.toNat / 2 ^ 6 % 2 ^ 2 = 0 → 8 ≤ w.toNat / 2 ^ 12 % 2 ^ 4 → w.toNat / 2 ^ 12 % 2 ^ 4 ≤ 14 →
        decode w = .error .illegalOperand)

/-- Words written out from the formats of R71, R72, R73 and the opcodes of R75 decode to the commands they stand
for. -/
def Obligations.WordsOfTheFormatsDecode : Prop :=
  decode 0x01000000 = .ok .bbClear
  ∧ decode 0x02080048 = .ok (.bbAppend 8 0x48)
  ∧ decode 0x0210FFFF = .ok (.bbAppend 16 0xFFFF)
  ∧ decode 0x1000F328 = .ok (.cfgSet 0xF .high 40)
  ∧ decode 0x10003007 = .ok (.cfgSet 3 .low 7)
  ∧ decode 0x20000000 = .ok .rsEncode
  ∧ decode 0x30000000 = .ok .gridBuild
  ∧ decode 0x40000000 = .ok .maskSelect
  ∧ decode 0x50000000 = .ok .outWrite
  ∧ decode 0x60000000 = .ok .encode

/-- Every word either is the word of a command and executes as that command, or raises IllegalCommand with no
other effect (R77). -/
def Obligations.EveryWordExecutesOrIsIllegal : Prop :=
  ∀ (w : Word) (s : State), s.fault = false →
    (∃ i : Instr, encode i = w ∧ i.wellFormed = true ∧ execWord w s = exec i s)
    ∨ execWord w s = .next { s with err := .illegalCommand, errCmd := w }

/-- The words of the assembler's forms (R79), and its refusal of BB_APPEND and CFG_SET operands that do not fit. -/
def Obligations.AssemblerGivesTheWords : Prop :=
  (∀ n v : Nat, n ≤ 16 → v < 2 ^ n →
    ∃ i, assemble (.bbAppend n v) = some [i] ∧ (encode i).toNat = 0x02000000 + n * 2 ^ 16 + v)
  ∧ (∀ n v : Nat, ¬(n ≤ 16 ∧ v < 2 ^ n) → assemble (.bbAppend n v) = none)
  ∧ (∀ (v e : Nat) (m : Option Nat), v < 64 → e < 4 → (∀ k, m = some k → k ≤ 7) →
    ∃ i, assemble (.cfgSet v e m) = some [i]
      ∧ (encode i).toNat = 0x10000000 + m.getD 0xF * 2 ^ 12 + e * 2 ^ 8 + v)
  ∧ (∀ (v e : Nat) (m : Option Nat), ¬(v < 64 ∧ e < 4 ∧ ∀ k, m = some k → k ≤ 7) →
    assemble (.cfgSet v e m) = none)
  ∧ (∀ l ∈ [(AsmLine.bbClear, 0x01000000), (.rsEncode, 0x20000000), (.gridBuild, 0x30000000),
        (.maskSelect, 0x40000000), (.outWrite, 0x50000000), (.encode, 0x60000000)],
      (assemble l.1).map (fun is => is.map fun i => (encode i).toNat) = some [l.2])

/-- BB_BITS with 17 to 32 bits gives the BitBuffer that one append of all its bits would give (R80). -/
def Obligations.LongAppendIsTwoAppends : Prop :=
  ∀ (n v : Nat) (s : State), 16 < n → n ≤ 32 → v < 2 ^ n → s.fault = false → s.bb.length + n ≤ 23648 →
    ∃ i j t u, assemble (.bbBits n v) = some [i, j] ∧ exec i s = .next t ∧ exec j t = .next u
      ∧ u.bb = s.bb ++ (List.range n).map (fun k => v.testBit (n - 1 - k)) ∧ u.err = .ok

/-! ### The step and the port (10_state.md R20, 60_exceptions.md R304, R305, R310, R314) -/

/-- What a step does with what waits at the port: nothing, a reset, a word under FAULT, a word that is no command,
a command. The queue itself is the model's form of the host's sequence (log 1). -/
def Obligations.StepServesTheOldestAction : Prop :=
  ∀ (s : State) (rest : List PortInput) (w : Word),
    (s.port = [] → step s = .next s)
    ∧ (s.port = .reset :: rest → step s = .next (hostReset { s with port := rest }))
    ∧ (s.port = .command w :: rest → s.fault = true → step s = .next { s with port := rest })
    ∧ (∀ d, s.port = .command w :: rest → s.fault = false → decode w = .error d →
        step s = .next { s with port := rest, err := .illegalCommand, errCmd := w })
    ∧ (∀ i, s.port = .command w :: rest → s.fault = false → decode w = .ok i →
        step s = exec i { s with port := rest })

/-- A word put where `step` takes its next one is run by the very next step (log 2). -/
def Obligations.FetchedWordRunsNext : Prop :=
  ∀ (s : State) (nbits w : Nat) (i : Instr), s.fault = false → decodeTableWord nbits w = some i →
    step (s.withFetchWord nbits w) = exec i s

/-- The fault state: raising InternalInconsistency enters it, every word is then ignored, the host's reset alone
leaves it; and R305's example. -/
def Obligations.FaultIgnoresEveryWordUntilReset : Prop :=
  (∀ (s : State) (w : Word), raiseError .internalInconsistency w s
    = { s with err := .internalInconsistency, errCmd := w, fault := true })
  ∧ (∀ (s : State) (w : Word), s.fault = true → execWord w s = .next s)
  ∧ (∀ (a : PortInput) (s t : State), s.fault = true → serve a s = .next t → t.fault = false → a = .reset)
  ∧ (∀ s : State, ∃ t, serve .reset s = .next t ∧ t.fault = false)
  ∧ (∀ s : State, s.fault = false → s.version = 1 → s.ecl = .low → s.bb.length = 8 → s.cwValid = false →
      s.gridState = .empty →
      ∃ t, exec .rsEncode s = .next t ∧ readReg t 0 = 0x14
        ∧ execWord 0x01000000 t = .next t)

/-- No step stops the machine: every word, legal or not, every stage error and every reset answers a next state,
and no write leaves the output buffer (R77; 20_memory.md R59). A step serves the
model's queue of host actions (log 1). -/
def Obligations.EveryStepAnswersANextState : Prop :=
  ∀ s : State, ∃ t, step s = .next t

/-- Reset, in every state, under FAULT too, puts every piece of core state into the values of R341 and leaves OUT
and OUT_CAP alone (R340). -/
def Obligations.ResetGivesTheTable : Prop :=
  ∀ s : State,
    ∃ t, serve .reset s = .next t
      ∧ t.err = .ok ∧ t.fault = false ∧ t.cwValid = false ∧ t.gridState = .empty
      ∧ t.version = 1 ∧ t.ecl = .low ∧ t.maskReq = .auto ∧ readReg t 1 = 0x0000F001
      ∧ t.bb = [] ∧ readReg t 2 = 0 ∧ t.cw = [] ∧ readReg t 0x0A = 0 ∧ (∀ i, readCW t i = 0)
      ∧ (∀ x y, t.grid.get x y = .unset) ∧ (∀ k, readGrid t k = 0)
      ∧ t.errCmd = 0 ∧ t.selMask = 0xF ∧ t.penalty = 0xFFFFFFFF ∧ (∀ m : Fin 8, t.pens[m] = 0xFFFFFFFF)
      ∧ readReg t 0 = 0
      ∧ (List.range 6).map (fun k => (readReg t (4 + k)).toNat) = [21, 19, 26, 1, 7, 57]
      ∧ t.out = s.out ∧ t.outCap = s.outCap

/-! ### Errors (60_exceptions.md) -/

/-- `raise E(w)` (R303): ERR, ERR_CMD, for InternalInconsistency FAULT, and nothing else; the state after a failing
command is the state before it plus these writes, with the command's own word. -/
def Obligations.RaiseWritesErrAndErrCmd : Prop :=
  (∀ (e : ErrCode) (w : Word) (s : State),
    raiseError e w s = { s with
      err := e
      errCmd := w
      fault := if e = .internalInconsistency then true else s.fault })
  ∧ (∀ (i : Instr) (s t : State), exec i s = .next t → t.err ≠ .ok → t = raiseError t.err (encode i) s)

/-- A command that raises an error changes STATUS.ERR, ERR_CMD and, for InternalInconsistency, STATUS.FAULT, and
nothing else (R301). -/
def Obligations.FailingCommandChangesNothingElse : Prop :=
  ∀ (i : Instr) (s t : State), exec i s = .next t → t.err ≠ .ok →
    t = { s with err := t.err, errCmd := t.errCmd, fault := t.fault }
    ∧ (t.err ≠ .internalInconsistency → t.fault = s.fault)
    ∧ (t.err = .internalInconsistency → t.fault = true)

/-- ERR_CMD holds the word of the most recent command that failed; a command that succeeds, and a word ignored
under FAULT, do not change it (10_state.md R28). -/
def Obligations.ErrCmdHoldsTheFailingWord : Prop :=
  ∀ (w : Word) (s t : State), execWord w s = .next t →
    (s.fault = false → t.err ≠ .ok → t.errCmd = w)
    ∧ (s.fault = false → t.err = .ok → t.errCmd = s.errCmd)
    ∧ (s.fault = true → t.errCmd = s.errCmd)

/-- The order of the error conditions (R304): FAULT, then the decoder's, then each command's own checks in the order
of its pseudocode. -/
def Obligations.ErrorsAreReportedInOrder : Prop :=
  ∀ (s : State) (w : Word),
    (s.fault = true → execWord w s = .next s)
    ∧ (∀ d, s.fault = false → decode w = .error d → execWord w s = .next (raiseError .illegalCommand w s))
    ∧ (∀ i, s.fault = false → decode w = .ok i → execWord w s = exec i s)
    ∧ (∀ mask ecl version, maskFieldLegal mask = true → (version.toNat < 1 ∨ 40 < version.toNat) →
        exec (.cfgSet mask ecl version) s
          = .next (raiseError .invalidVersionRange (encode (.cfgSet mask ecl version)) s))
    ∧ (∀ nbits value, appendFieldsLegal nbits value = true → 23648 < s.bb.length + nbits.toNat →
        exec (.bbAppend nbits value) s
          = .next (raiseError .internalInconsistency (encode (.bbAppend nbits value)) s))
    ∧ (s.bb.length ≠ 8 * dataCw s.v s.ecl →
        exec .rsEncode s = .next (raiseError .internalInconsistency 0x20000000 s))
    ∧ (s.cwValid = false → exec .gridBuild s = .next (raiseError .stageError 0x30000000 s))
    ∧ (s.cwValid = true → s.cw.length ≠ rawCw s.v →
        exec .gridBuild s = .next (raiseError .internalInconsistency 0x30000000 s))
    ∧ (s.gridState ≠ .placed → exec .maskSelect s = .next (raiseError .stageError 0x40000000 s))
    ∧ (s.gridState ≠ .final → exec .outWrite s = .next (raiseError .stageError 0x50000000 s))
    ∧ (s.gridState = .final → s.outCap < outLen s.v →
        exec .outWrite s = .next (raiseError .bufferTooSmall 0x50000000 s))
    ∧ (s.bb.length ≠ 8 * dataCw s.v s.ecl →
        exec .encode s = .next (raiseError .internalInconsistency 0x60000000 s))
    ∧ (s.bb.length = 8 * dataCw s.v s.ecl → 1 ≤ s.v → s.v ≤ 40 → s.outCap < outLen s.v →
        exec .encode s = .next (raiseError .bufferTooSmall 0x60000000 s))
    ∧ ∃ t, exec .bbClear s = .next t ∧ t.err = .ok

/-! ### The BitBuffer (41_bitbuffer.md) -/

/-- BB_CLEAR empties the BitBuffer, invalidates the later stages and changes nothing else (R102). -/
def Obligations.BbClearEmptiesAndInvalidates : Prop :=
  ∀ s : State, s.fault = false →
    exec .bbClear s = .next { s with
      bb := [], err := .ok, cwValid := false, cw := [], gridState := .empty, grid := []
      selMask := 0xF, penalty := 0xFFFFFFFF, pens := noPens }

/-- BB_APPEND appends the low NBITS bits of VALUE, most significant first, invalidates the later stages and changes
nothing else; for every legal operand and every BitBuffer with room, an append that ends exactly at the
capacity and an empty append among them (R103). -/
def Obligations.BbAppendAppendsMostSignificantFirst : Prop :=
  ∀ (nbits : BitVec 5) (value : BitVec 16) (s : State), s.fault = false →
    nbits.toNat ≤ 16 → value.toNat < 2 ^ nbits.toNat → s.bb.length + nbits.toNat ≤ 23648 →
    ∃ t, exec (.bbAppend nbits value) s = .next t
      ∧ t = { s with
          bb := t.bb, err := .ok, cwValid := false, cw := [], gridState := .empty, grid := []
          selMask := 0xF, penalty := 0xFFFFFFFF, pens := noPens }
      ∧ t.bb.length = s.bb.length + nbits.toNat
      ∧ (∀ p < s.bb.length, t.bb[p]? = s.bb[p]?)
      ∧ (∀ i < nbits.toNat, t.bb[s.bb.length + (nbits.toNat - 1 - i)]? = some (value.getLsbD i))

/-- The BitBuffer is append only: a command leaves it, or is BB_CLEAR and empties it, or is BB_APPEND and adds bits
at its end (R100). -/
def Obligations.BitBufferIsAppendOnly : Prop :=
  ∀ (i : Instr) (s t : State), exec i s = .next t →
    t.bb = s.bb
    ∨ (i = .bbClear ∧ t.bb = [])
    ∨ (∃ nbits value added, i = .bbAppend nbits value ∧ t.bb = s.bb ++ added ∧ added.length = nbits.toNat)

/-- Bit `7 - j` of `BBbyte(i)` is BitBuffer bit `8i + j`, or 0 beyond the end (R101), and the read port's BB space
shows those bytes (20_memory.md R51); the data codewords are those bytes. -/
def Obligations.BbByteIsMostSignificantFirst : Prop :=
  (∀ (bb : List Bool) (i j : Nat), j < 8 → (bbByte bb i).getLsbD (7 - j) = bb.getD (8 * i + j) false)
  ∧ (∀ (n : Nat) (bb : List Bool) (i : Nat), i < n → (dataCodewords n bb)[i]? = some (bbByte bb i))
  ∧ (∀ (s : State) (i : Nat), i < 2956 → readBB s i = bbByte s.bb i)
  ∧ (∀ (s : State) (i : Nat), 2956 ≤ i → readBB s i = 0)

/-! ### Configuration and tables (42_config.md) -/

/-- CFG_SET with a legal mask field and version copies the low half of its word to CONFIG, invalidates the later
stages and changes nothing else (R121; 30_encoding.md R73). -/
def Obligations.CfgSetWritesConfig : Prop :=
  ∀ (mask : BitVec 4) (ecl : Ecl) (version : BitVec 6) (s : State), s.fault = false →
    maskFieldLegal mask = true → 1 ≤ version.toNat → version.toNat ≤ 40 →
    ∃ t, exec (.cfgSet mask ecl version) s = .next t
      ∧ readReg t 1 = encode (.cfgSet mask ecl version) &&& 0xFFFF
      ∧ t.version = version ∧ t.ecl = ecl ∧ t.maskReq.field = mask
      ∧ t = { s with
          version := t.version, ecl := t.ecl, maskReq := t.maskReq
          err := .ok, cwValid := false, cw := [], gridState := .empty, grid := []
          selMask := 0xF, penalty := 0xFFFFFFFF, pens := noPens }

/-- The derived registers always read the functions of CONFIG, and only CFG_SET changes them (R136). -/
def Obligations.DerivedRegistersFollowConfig : Prop :=
  (∀ s : State,
    (readReg s 4).toNat = side s.v ∧ (readReg s 5).toNat = dataCw s.v s.ecl ∧ (readReg s 6).toNat = rawCw s.v
    ∧ (readReg s 7).toNat = numBlocks s.v s.ecl ∧ (readReg s 8).toNat = eccPerBlock s.v s.ecl
    ∧ (readReg s 9).toNat = outLen s.v)
  ∧ (∀ (i : Instr) (s t : State), exec i s = .next t → (∀ m e v, i ≠ .cfgSet m e v) →
      ∀ r, 4 ≤ r → r ≤ 9 → readReg t r = readReg s r)
  ∧ (List.range 6).map (fun k => (readReg State.reset (4 + k)).toNat) = [21, 19, 26, 1, 7, 57]

/-- The properties of the tables that R137 lists. -/
def Obligations.TableProperties : Prop :=
  (∀ v e, 1 ≤ v → v ≤ 40 →
    1 ≤ shortBlockDataLen v e ∧ 1 ≤ numShortBlocks v e
    ∧ eccPerBlock v e ∈ [7, 10, 13, 15, 16, 17, 18, 20, 22, 24, 26, 28, 30] ∧ numBlocks v e ≤ 81)
  ∧ (∀ v, 1 ≤ v → v ≤ 40 → dataCw v .medium < dataCw v .low ∧ dataCw v .quartile < dataCw v .medium
      ∧ dataCw v .high < dataCw v .quartile)
  ∧ dataCw 40 .low = 2956 ∧ 8 * dataCw 40 .low = Config.bbCapBits

/-- The block lengths sum to the data codewords, and data and ECC make up all codewords (R129, R130). -/
def Obligations.BlockLengthsSumToDataCodewords : Prop :=
  ∀ v e, 1 ≤ v → v ≤ 40 →
    (blockLens v e).sum = dataCw v e ∧ dataCw v e + numBlocks v e * eccPerBlock v e = rawCw v

/-! ### Reed-Solomon (43_reed_solomon.md) -/

/-- The laws of field multiplication that R161 names, and its distribution over field addition. -/
def Obligations.GmulIsFieldMultiplication : Prop :=
  (∀ a b, gmul a b = gmul b a)
  ∧ (∀ a b c, gmul (gmul a b) c = gmul a (gmul b c))
  ∧ (∀ a b c, gmul a (b ^^^ c) = gmul a b ^^^ gmul a c)
  ∧ (∀ a, gmul a 1 = a) ∧ (∀ a, gmul a 0 = 0) ∧ gmul 0x80 0x02 = 0x1D

/-- α = 2 is primitive and multiplication is the log/antilog form (R151). -/
def Obligations.AlphaIsPrimitive : Prop :=
  (∀ a : Byte, a ≠ 0 → ∃ i < 255, gexp i = a ∧ ∀ j < 255, gexp j = a → j = i)
  ∧ (∀ i < 255, gexp i ≠ 0) ∧ gexp 255 = 1
  ∧ (∀ a : Byte, a ≠ 0 → gexp (glog a) = a ∧ glog a < 255)
  ∧ (∀ a b : Byte, gmul a b = if a = 0 ∨ b = 0 then 0 else gexp ((glog a + glog b) % 255))
  ∧ (List.range 16).map gexp
      = [0x01, 0x02, 0x04, 0x08, 0x10, 0x20, 0x40, 0x80, 0x1D, 0x3A, 0x74, 0xE8, 0xCD, 0x87, 0x13, 0x26]

/-- RSRemainder is linear over GF(256) in blocks of one length (R161). -/
def Obligations.RemainderIsLinear : Prop :=
  ∀ D A B : List Byte, A.length = B.length →
    rsRemainder (List.zipWith (· ^^^ ·) A B) D = List.zipWith (· ^^^ ·) (rsRemainder A D) (rsRemainder B D)

/-- A block followed by its ECC codewords, read as a polynomial, vanishes at every root `α^i` of the generator: the
ECC codewords are the remainder of R153. -/
def Obligations.BlockWithEccVanishesAtTheRoots : Prop :=
  ∀ (B : List Byte) (d i : Nat), 1 ≤ d → d ≤ 30 → i < d →
    (rsRemainder B (rsDivisor d)).length = d
    ∧ polyEval (gexp i) (B ++ rsRemainder B (rsDivisor d)) = 0

/-- Where each data and ECC byte lands in the final sequence, and the properties of R156 (R154, R155). -/
def Obligations.InterleavingPlacesEveryByte : Prop :=
  ∀ (v : Nat) (e : Ecl) (bb : List Bool), 1 ≤ v → v ≤ 40 →
    let data := dataCodewords (dataCw v e) bb
    let blocks := splitBlocks (blockLens v e) data
    let final := finalCodewords v e bb
    final.length = rawCw v
    ∧ blocks.flatten = data ∧ blocks.map List.length = blockLens v e
    ∧ (∀ i j b, blocks[i]? = some b → j < b.length →
        final[i + j * numBlocks v e - (if j = shortBlockDataLen v e then numShortBlocks v e else 0)]? = b[j]?)
    ∧ (∀ i j b, blocks[i]? = some b → j < eccPerBlock v e →
        final[dataCw v e + i + j * numBlocks v e]? = (rsRemainder b (rsDivisor (eccPerBlock v e)))[j]?)
    ∧ (final.take (dataCw v e)).Perm data

/-- RS_ENCODE on a BitBuffer of exactly `DATA_CW` bytes writes the final codewords to CW, resets the grid and
changes nothing else (R160). -/
def Obligations.RsEncodeWritesTheCodewords : Prop :=
  ∀ s : State, s.fault = false → s.bb.length = 8 * dataCw s.v s.ecl →
    exec .rsEncode s = .next { s with
      cw := finalCodewords s.v s.ecl s.bb, cwValid := true, err := .ok, gridState := .empty, grid := []
      selMask := 0xF, penalty := 0xFFFFFFFF, pens := noPens }

/-! ### The grid (44_grid_layout.md) -/

/-- The zigzag lists every data module exactly once (R191); its order is the one of `zigzag`. -/
def Obligations.ZigzagListsEveryDataModuleOnce : Prop :=
  ∀ v, 1 ≤ v → v ≤ 40 →
    (zigzag v).Nodup
    ∧ (∀ x y, (x, y) ∈ zigzag v ↔ x < side v ∧ y < side v ∧ isFunc v x y = false)

/-- There are as many data modules as the geometry table says, eight for each codeword and the remainder modules,
so every codeword bit has a module (R193). -/
def Obligations.EveryCodewordBitHasAModule : Prop :=
  ∀ v, 1 ≤ v → v ≤ 40 →
    (zigzag v).length = rawModules v ∧ rawModules v = 8 * rawCw v + remBits v
    ∧ (∀ k < 8 * rawCw v, ∃ p, (zigzag v)[k]? = some p)

/-- Every cell of the PLACED grid: function modules in their colours, the module `Z[k]` dark as codeword bit `k`,
remainder modules light, cells outside UNSET (R189, R192, R195, R196). -/
def Obligations.PlacedGridHoldsEveryBit : Prop :=
  ∀ (v : Nat) (cw : List Byte), 1 ≤ v → v ≤ 40 → ∀ x y,
    (x < side v → y < side v → isFunc v x y = true → (placedGrid v cw).get x y = .set (fcolour v x y) true)
    ∧ (∀ k, (zigzag v)[k]? = some (x, y) →
        (placedGrid v cw).get x y = .set (decide (k < 8 * cw.length) && codewordBit cw k) false)
    ∧ (¬(x < side v ∧ y < side v) → (placedGrid v cw).get x y = .unset)

/-- GRID_BUILD with valid codewords of the version's number builds the PLACED grid, in every grid state, and changes
nothing else (R195). -/
def Obligations.GridBuildPlacesTheCodewords : Prop :=
  ∀ s : State, s.fault = false → s.cwValid = true → s.cw.length = rawCw s.v →
    exec .gridBuild s = .next { s with
      grid := placedGrid s.v s.cw, gridState := .placed, err := .ok
      selMask := 0xF, penalty := 0xFFFFFFFF, pens := noPens }

/-- The colours of the function patterns: every module of a finder and its separator by its distance from the
finder's centre (R181, R182), the two timing lines with the alignment blocks on them (R183, R184, R186), the
alignment blocks (R184) and the blank format area (R185). -/
def Obligations.FunctionPatternColours : Prop :=
  ∀ v, 1 ≤ v → v ≤ 40 →
    finderCentres v = [(3, 3), (side v - 4, 3), (3, side v - 4)]
    ∧ (∀ c ∈ finderCentres v, ∀ x < side v, ∀ y < side v, max (absDiff x c.1) (absDiff y c.2) ≤ 4 →
        isFunc v x y = true
        ∧ (fcolour v x y = true ↔
            max (absDiff x c.1) (absDiff y c.2) ≠ 2 ∧ max (absDiff x c.1) (absDiff y c.2) ≠ 4))
    ∧ (∀ c ∈ finderCentres v, ∀ k < 7, ∀ j < 3,
        fcolour v (c.1 - 3 + k) (c.2 - 1 + j) = [true, false, true, true, true, false, true].getD k false
        ∧ fcolour v (c.1 - 1 + j) (c.2 - 3 + k) = [true, false, true, true, true, false, true].getD k false)
    ∧ (∀ k, 8 ≤ k → k ≤ side v - 9 →
        isFunc v 6 k = true ∧ fcolour v 6 k = decide (k % 2 = 0)
        ∧ isFunc v k 6 = true ∧ fcolour v k 6 = decide (k % 2 = 0))
    ∧ (∀ c ∈ alignCentres v, ∀ a < 5, ∀ b < 5,
        isFunc v (c.1 - 2 + a) (c.2 - 2 + b) = true
        ∧ fcolour v (c.1 - 2 + a) (c.2 - 2 + b) = decide (max (absDiff a 2) (absDiff b 2) ≠ 1))
    ∧ (formatArea v).Nodup ∧ (formatArea v).length = 31
    ∧ (∀ p ∈ formatArea v, isFunc v p.1 p.2 = true ∧ fcolour v p.1 p.2 = false)

/-- From version 7 on, bit `i` of the version word colours its two modules; below there are no version areas
(R187, R188). -/
def Obligations.VersionWordColoursItsModules : Prop :=
  (∀ v, 7 ≤ v → v ≤ 40 →
    versionBits v / 2 ^ 12 = v
    ∧ ∀ i < 18,
      isFunc v (side v - 11 + i % 3) (i / 3) = true
      ∧ fcolour v (side v - 11 + i % 3) (i / 3) = (versionBits v).testBit i
      ∧ isFunc v (i / 3) (side v - 11 + i % 3) = true
      ∧ fcolour v (i / 3) (side v - 11 + i % 3) = (versionBits v).testBit i)
  ∧ (∀ v x y, v ≤ 6 → inVersionTopRight v x y = false ∧ inVersionBottomLeft v x y = false)
  ∧ versionBits 7 = 0x07C94 ∧ versionBits 40 = 0x28C69

/-! ### The mask selector (45_mask_select.md) -/

/-- A mask inverts exactly the data modules its condition names, leaves function modules alone, and applied twice
restores the grid (R221). -/
def Obligations.MaskInvertsDataModulesOnly : Prop :=
  ∀ (S : Nat) (P : Grid) (m : Fin 8), P.length = S → (∀ row ∈ P, row.length = S) →
    (∀ x < S, ∀ y < S, ∀ dark func, P.get x y = .set dark func →
      (maskGrid S P m).get x y = .set (if func = false ∧ maskCond m x y = true then !dark else dark) func)
    ∧ maskGrid S (maskGrid S P m) m = P

/-- StampFormat writes bit `i` of the format word to both modules of format bit `i`, makes the dark module dark,
and changes no other module (R223, R224). -/
def Obligations.StampFormatWritesTheFormatArea : Prop :=
  ∀ (v : Nat) (g : Grid) (e : Ecl) (m : Fin 8), 1 ≤ v → v ≤ 40 →
    let t := stampFormat v g e m
    let bit := fun i => (formatBits e m).testBit i
    (∀ i < 15, t.get (formatModuleA i).1 (formatModuleA i).2
        = (g.get (formatModuleA i).1 (formatModuleA i).2).withDark (bit i))
    ∧ (∀ i < 15, t.get (formatModuleB v i).1 (formatModuleB v i).2
        = (g.get (formatModuleB v i).1 (formatModuleB v i).2).withDark (bit i))
    ∧ t.get 8 (side v - 8) = (g.get 8 (side v - 8)).withDark true
    ∧ (∀ x y, (x, y) ∉ formatArea v → t.get x y = g.get x y)

/-- Every candidate is made from the same PLACED grid; the selection keeps one of the lowest score, the lowest mask
among equals (R230), over the candidates of R231. -/
def Obligations.SelectionKeepsTheLowestScore : Prop :=
  maskCandidates .auto = [0, 1, 2, 3, 4, 5, 6, 7]
  ∧ (∀ m, maskCandidates (.forced m) = [m])
  ∧ ∀ (v : Nat) (e : Ecl) (P : Grid) (req : MaskReq),
      let best := selectMask v e P req
      (∀ m, (candidate v e P m).grid = stampFormat v (maskGrid (side v) P m) e m
        ∧ (candidate v e P m).score = gridPenalty (candidate v e P m).grid (side v))
      ∧ best.mask ∈ maskCandidates req ∧ best = candidate v e P best.mask
      ∧ ∀ m ∈ maskCandidates req,
          best.score ≤ (candidate v e P m).score
          ∧ ((candidate v e P m).score = best.score → best.mask ≤ m)

/-- MASK_SELECT on a PLACED grid stores the chosen grid and the results and changes nothing else (R232). -/
def Obligations.MaskSelectStoresTheBest : Prop :=
  ∀ s : State, s.fault = false → s.gridState = .placed →
    let best := selectMask s.v s.ecl s.grid s.maskReq
    ∃ t, exec .maskSelect s = .next t
      ∧ t = { s with
          grid := best.grid, gridState := .final, err := .ok
          selMask := BitVec.ofNat 4 best.mask.val, penalty := BitVec.ofNat 32 best.score, pens := t.pens }
      ∧ ∀ m : Fin 8, t.pens[m]
          = if m ∈ maskCandidates s.maskReq then BitVec.ofNat 32 (candidate s.v s.ecl s.grid m).score
            else 0xFFFFFFFF

/-- Mask optimality: after an automatic selection PENALTY is the least of PEN0 .. PEN7 and is the PEN of the
selected mask, none of them the value that means not evaluated; a forced mask is selected whatever its score
(R229 to R232). -/
def Obligations.AutomaticMaskIsOptimal : Prop :=
  (∀ s : State, s.fault = false → s.gridState = .placed → s.maskReq = .auto → 1 ≤ s.v → s.v ≤ 40 →
    ∃ (t : State) (m : Fin 8), exec .maskSelect s = .next t ∧ t.selMask.toNat = m.val ∧ t.pens[m] = t.penalty
      ∧ ∀ k : Fin 8, t.penalty.toNat ≤ t.pens[k].toNat ∧ t.pens[k] ≠ 0xFFFFFFFF)
  ∧ (∀ (s : State) (m : Fin 8), s.fault = false → s.gridState = .placed → s.maskReq = .forced m →
      1 ≤ s.v → s.v ≤ 40 →
      ∃ t, exec .maskSelect s = .next t ∧ t.selMask.toNat = m.val ∧ t.pens[m] = t.penalty
        ∧ ∀ k : Fin 8, k ≠ m → t.pens[k] = 0xFFFFFFFF)

/-- The runs of a line are maximal and together are the line, and a run scores as R225 says. -/
def Obligations.RunsAreMaximal : Prop :=
  (∀ line : List Bool,
    (runs line).flatMap (fun r => List.replicate r.2 r.1) = line
    ∧ (∀ r ∈ runs line, 0 < r.2)
    ∧ (∀ k a b, (runs line)[k]? = some a → (runs line)[k + 1]? = some b → a.1 ≠ b.1))
  ∧ (∀ (n : Nat) (c : Bool), lineRunScore (List.replicate n c) = if n < 5 then 0 else 3 + (n - 5))

/-- The padded run list of rule (c): it begins and ends with light runs of at least `S`, the padding included, its
runs alternate so that every even index is light, and its lengths sum to the line and both paddings (R227). -/
def Obligations.PaddedRunsBeginAndEndLight : Prop :=
  ∀ (S : Nat) (line : List Bool),
    paddedRuns S line = (paddedRunList S line).map Prod.snd
    ∧ (∀ i r, (paddedRunList S line)[i]? = some r → r.1 = decide (i % 2 = 1))
    ∧ (paddedRunList S line).head?.map Prod.fst = some false
    ∧ (paddedRunList S line).getLast?.map Prod.fst = some false
    ∧ (paddedRuns S line).length % 2 = 1
    ∧ (paddedRuns S line).sum = line.length + 2 * S
    ∧ S ≤ (paddedRuns S line).headD 0 ∧ S ≤ (paddedRuns S line).getLastD 0

/-- The step count of rule (d) is the number of whole 5% steps beyond 45% .. 55%, a boundary share belonging to the
lower count (R228). -/
def Obligations.DarkRatioCountsWholeSteps : Prop :=
  ∀ dark total : Nat, total % 2 = 1 → dark ≤ total →
    total * darkRatioSteps dark total < ((20 * dark : Int) - (10 * total : Int)).natAbs
    ∧ ((20 * dark : Int) - (10 * total : Int)).natAbs ≤ total * (darkRatioSteps dark total + 1)
    ∧ darkRatioSteps dark total ≤ 9

/-- The penalty of any grid of any version is below 2^24, so it is stored whole and is never the value for not
evaluated (R229). -/
def Obligations.PenaltyIsBelowTwoToThe24 : Prop :=
  ∀ (v : Nat) (g : Grid), 1 ≤ v → v ≤ 40 →
    gridPenalty g (side v)
      = penaltyRuns g.darkAt (side v) + penaltyWindows g.darkAt (side v) + penaltyFinders g.darkAt (side v)
        + penaltyRatio g.darkAt (side v)
    ∧ gridPenalty g (side v) < 2 ^ 24
    ∧ (BitVec.ofNat 32 (gridPenalty g (side v))).toNat = gridPenalty g (side v)
    ∧ BitVec.ofNat 32 (gridPenalty g (side v)) ≠ (0xFFFFFFFF : Word)

/-! ### Output (46_output.md) -/

/-- The output image: its length, its header byte, module `k` at bit `k mod 8` of byte `1 + k div 8`, pad bits 0
(R260). -/
def Obligations.OutputImageIsPackedRowMajor : Prop :=
  ∀ (v : Nat) (g : Grid), 1 ≤ v → v ≤ 40 →
    (outImage v g).length = outLen v
    ∧ ((outImage v g).getD 0 0).toNat = side v
    ∧ (∀ k < side v ^ 2, ((outImage v g).getD (1 + k / 8) 0).getLsbD (k % 8)
        = g.darkAt (k % side v) (k / side v))
    ∧ (∀ j b, b < 8 → side v ^ 2 ≤ 8 * j + b → ((outImage v g).getD (1 + j) 0).getLsbD b = false)

/-- OUT_WRITE with a FINAL grid and a buffer that holds the image writes the image at offsets `0 .. OUT_LEN - 1`,
leaves every other offset and all core state alone (R261). -/
def Obligations.OutWriteWritesTheImage : Prop :=
  ∀ s : State, s.fault = false → s.gridState = .final → outLen s.v ≤ s.outCap →
    ∃ t, exec .outWrite s = .next t
      ∧ t = { s with out := t.out, err := .ok }
      ∧ (∀ a, a < outLen s.v → readOut t a = (outImage s.v s.grid)[a]?)
      ∧ (∀ a, outLen s.v ≤ a → readOut t a = readOut s a)

/-- ENCODE on a BitBuffer of the right length and a buffer that holds the image leaves the final codewords, the
chosen grid, the mask results and the image; the BitBuffer, CONFIG and ERR_CMD are unchanged (R262). -/
def Obligations.EncodeRunsTheWholePipeline : Prop :=
  ∀ s : State, s.fault = false → 1 ≤ s.v → s.v ≤ 40 → s.bb.length = 8 * dataCw s.v s.ecl →
    outLen s.v ≤ s.outCap →
    let cw := finalCodewords s.v s.ecl s.bb
    let best := selectMask s.v s.ecl (placedGrid s.v cw) s.maskReq
    ∃ t, exec .encode s = .next t
      ∧ t = { s with
          err := .ok, cw := cw, cwValid := true, gridState := .final, grid := best.grid
          selMask := BitVec.ofNat 4 best.mask.val, penalty := BitVec.ofNat 32 best.score
          pens := pensOf s.v s.ecl (placedGrid s.v cw) s.maskReq, out := t.out }
      ∧ (∀ a, a < outLen s.v → readOut t a = (outImage s.v best.grid)[a]?)
      ∧ (∀ a, outLen s.v ≤ a → readOut t a = readOut s a)

/-- A successful ENCODE is the four stage commands one after another, and the other way round; StageError never
comes from it (R262). -/
def Obligations.EncodeEqualsTheFourCommands : Prop :=
  (∀ s t : State, exec .encode s = .next t → t.err = .ok →
    ∃ a b c, exec .rsEncode s = .next a ∧ a.err = .ok ∧ exec .gridBuild a = .next b ∧ b.err = .ok
      ∧ exec .maskSelect b = .next c ∧ c.err = .ok ∧ exec .outWrite c = .next t)
  ∧ (∀ s a b c t : State, exec .rsEncode s = .next a → a.err = .ok → exec .gridBuild a = .next b → b.err = .ok →
      exec .maskSelect b = .next c → c.err = .ok → exec .outWrite c = .next t → t.err = .ok →
      exec .encode s = .next t)
  ∧ (∀ s t : State, exec .encode s = .next t → t.err ≠ .stageError ∧ t.err ≠ .illegalCommand)

/-- A second ENCODE on the same BitBuffer and CONFIG changes nothing: the result is a function of the inputs
(46_output.md R262, 43_reed_solomon.md R160; 10_state.md R34). -/
def Obligations.EncodingAgainChangesNothing : Prop :=
  ∀ s t : State, Memory.wf s.out → exec .encode s = .next t → t.err = .ok → exec .encode t = .next t

/-! ### State, memory and frames (10_state.md, 20_memory.md) -/

/-- OUT is host memory: reset and every command but OUT_WRITE and ENCODE leave it alone, and no command reads it
(R32). That State.reset lists no byte of OUT and that an unwritten offset reads as no value is the model's choice
(log 5). -/
def Obligations.OutIsWrittenNeverRead : Prop :=
  (∀ s : State, (hostReset s).out = s.out)
  ∧ (∀ a, readOut State.reset a = none)
  ∧ (∀ (i : Instr) (s t : State), exec i s = .next t → i ≠ .outWrite → i ≠ .encode → t.out = s.out)
  ∧ (∀ (i : Instr) (s t : State) (m : Memory), exec i s = .next t →
      ∃ m', exec i { s with out := m } = .next { t with out := m' })

/-- What each command leaves unchanged, in a completed or a failed execution alike: each piece of state changes only
under the commands R23, R33 and R32 name, and OUT only below OUT_LEN. -/
def Obligations.CommandsChangeOnlyTheirState : Prop :=
  ∀ (i : Instr) (s t : State), exec i s = .next t →
    t.outCap = s.outCap ∧ t.port = s.port
    ∧ ((∀ m e v, i ≠ .cfgSet m e v) → t.version = s.version ∧ t.ecl = s.ecl ∧ t.maskReq = s.maskReq)
    ∧ (i ≠ .bbClear → (∀ n x, i ≠ .bbAppend n x) → t.bb = s.bb)
    ∧ (i = .gridBuild ∨ i = .maskSelect ∨ i = .outWrite → t.cw = s.cw ∧ t.cwValid = s.cwValid)
    ∧ (i = .outWrite → t.grid = s.grid ∧ t.gridState = s.gridState ∧ t.selMask = s.selMask
        ∧ t.penalty = s.penalty ∧ t.pens = s.pens)
    ∧ (t.fault ≠ s.fault → t.fault = true ∧ t.err = .internalInconsistency)
    ∧ (i ≠ .outWrite → i ≠ .encode → ∀ a, readOut t a = readOut s a)
    ∧ (∀ a, outLen s.v ≤ a → readOut t a = readOut s a)

/-- The register map: STATUS and CONFIG field by field, the stored registers, and 0 at every unmapped index (R23,
R24, R25; 20_memory.md R55). -/
def Obligations.RegisterMapReadsTheState : Prop :=
  ∀ s : State,
    (readReg s 0).toNat = s.err.code.toNat + 16 * s.fault.toNat + 32 * s.cwValid.toNat + 64 * s.gridState.code.toNat
    ∧ (readReg s 1).toNat = s.version.toNat + 256 * (eclToBits s.ecl).toNat + 4096 * s.maskReq.field.toNat
    ∧ (s.bb.length ≤ 23648 → (readReg s 2).toNat = s.bb.length)
    ∧ readReg s 3 = s.errCmd
    ∧ (s.cw.length ≤ 3706 → (readReg s 0x0A).toNat = s.cw.length)
    ∧ (readReg s 0x0B).toNat = s.selMask.toNat
    ∧ readReg s 0x0C = s.penalty
    ∧ (∀ m : Fin 8, readReg s (0x10 + m.val) = s.pens[m])
    ∧ (∀ r, (0x0D ≤ r ∧ r ≤ 0x0F) ∨ 0x18 ≤ r → readReg s r = 0)

/-- The CW and GRID spaces: a codeword, a cell's set, func and dark bits, and 0 out of range (20_memory.md R52, R54,
R58). -/
def Obligations.ReadPortShowsCodewordsAndCells : Prop :=
  ∀ s : State,
    (∀ i, i < s.cw.length → some (readCW s i) = s.cw[i]?)
    ∧ (∀ i, s.cw.length ≤ i → readCW s i = 0)
    ∧ (∀ x y, x < side s.v → y < side s.v →
        (s.grid.get x y = .unset → readGrid s (y * side s.v + x) = 0)
        ∧ ∀ dark func, s.grid.get x y = .set dark func →
            (readGrid s (y * side s.v + x)).toNat = 4 + 2 * func.toNat + dark.toNat)
    ∧ (∀ k, side s.v ^ 2 ≤ k → readGrid s k = 0)

/-- The state right after reset is coherent. -/
def Obligations.ResetStateIsCoherent : Prop := State.reset.Coherent

/-- Every step keeps the state coherent: CONFIG legal, the memories within their sizes, the stage flags true of the
memories, the mask results those of the grid, FAULT exactly with ERR = 4 (R25 to R33). Coherence is the model's
invariant; a step serves the model's queue of host actions (log 1). -/
def Obligations.EveryStepKeepsTheStateCoherent : Prop :=
  ∀ s t : State, s.Coherent → step s = .next t → t.Coherent

/-- In a coherent state the invariants of R27 hold, the codeword memory is within its size (R31), and a grid that is
not EMPTY is drawn, with `func` exactly on the function modules, within the `SIZE_MAX` by `SIZE_MAX` array (R30). -/
def Obligations.CoherentStatesKeepTheStageRules : Prop :=
  ∀ s : State, s.Coherent →
    (s.gridState ≠ .empty → s.cwValid = true)
    ∧ (s.cwValid = true → s.cw.length = rawCw s.v)
    ∧ (s.cwValid = false → s.cw.length = 0)
    ∧ (s.gridState ≠ .final → s.selMask = 0xF)
    ∧ s.cw.length ≤ Config.cwCap
    ∧ (s.gridState = .empty → ∀ x y, s.grid.get x y = .unset)
    ∧ (s.gridState ≠ .empty → s.grid.Drawn s.v)
    ∧ side s.v ≤ Config.sizeMax
    ∧ (∀ x y, s.grid.get x y ≠ .unset → x < Config.sizeMax ∧ y < Config.sizeMax)

/-- Whatever the host writes and whenever it resets, every state reached from power-on is coherent, and the four
invariants of R27 hold in it. Runs are steps over the model's queue of host actions (log 1). -/
def Obligations.ReachableStatesKeepTheStageRules : Prop :=
  ∀ s t : State, PowerOn s → Reaches s t →
    t.Coherent
    ∧ (t.gridState ≠ .empty → t.cwValid = true)
    ∧ (t.cwValid = true → t.cw.length = rawCw t.v)
    ∧ (t.cwValid = false → t.cw.length = 0)
    ∧ (t.gridState ≠ .final → t.selMask = 0xF)
end

