-- ==== Sys2Proof/Laws/State.lean ====
section
/-! SUPPORT. What each state update does to each field of State, one lemma a field, all true by unfolding the
update once; no later proof unfolds a record update. -/

namespace Sys2Proof.Machine

/-! `clearMaskResults` -/

@[simp] theorem clearMaskResults_err (s : State) :
    (clearMaskResults s).err = s.err := rfl
@[simp] theorem clearMaskResults_fault (s : State) :
    (clearMaskResults s).fault = s.fault := rfl
@[simp] theorem clearMaskResults_cwValid (s : State) :
    (clearMaskResults s).cwValid = s.cwValid := rfl
@[simp] theorem clearMaskResults_gridState (s : State) :
    (clearMaskResults s).gridState = s.gridState := rfl
@[simp] theorem clearMaskResults_version (s : State) :
    (clearMaskResults s).version = s.version := rfl
@[simp] theorem clearMaskResults_ecl (s : State) :
    (clearMaskResults s).ecl = s.ecl := rfl
@[simp] theorem clearMaskResults_maskReq (s : State) :
    (clearMaskResults s).maskReq = s.maskReq := rfl
@[simp] theorem clearMaskResults_errCmd (s : State) :
    (clearMaskResults s).errCmd = s.errCmd := rfl
@[simp] theorem clearMaskResults_selMask (s : State) :
    (clearMaskResults s).selMask = noMask := rfl
@[simp] theorem clearMaskResults_penalty (s : State) :
    (clearMaskResults s).penalty = noPenalty := rfl
@[simp] theorem clearMaskResults_pens (s : State) :
    (clearMaskResults s).pens = noPens := rfl
@[simp] theorem clearMaskResults_bb (s : State) :
    (clearMaskResults s).bb = s.bb := rfl
@[simp] theorem clearMaskResults_cw (s : State) :
    (clearMaskResults s).cw = s.cw := rfl
@[simp] theorem clearMaskResults_grid (s : State) :
    (clearMaskResults s).grid = s.grid := rfl
@[simp] theorem clearMaskResults_out (s : State) :
    (clearMaskResults s).out = s.out := rfl
@[simp] theorem clearMaskResults_outCap (s : State) :
    (clearMaskResults s).outCap = s.outCap := rfl
@[simp] theorem clearMaskResults_port (s : State) :
    (clearMaskResults s).port = s.port := rfl

/-! `invalidateGrid` -/

@[simp] theorem invalidateGrid_err (s : State) :
    (invalidateGrid s).err = s.err := rfl
@[simp] theorem invalidateGrid_fault (s : State) :
    (invalidateGrid s).fault = s.fault := rfl
@[simp] theorem invalidateGrid_cwValid (s : State) :
    (invalidateGrid s).cwValid = s.cwValid := rfl
@[simp] theorem invalidateGrid_gridState (s : State) :
    (invalidateGrid s).gridState = .empty := rfl
@[simp] theorem invalidateGrid_version (s : State) :
    (invalidateGrid s).version = s.version := rfl
@[simp] theorem invalidateGrid_ecl (s : State) :
    (invalidateGrid s).ecl = s.ecl := rfl
@[simp] theorem invalidateGrid_maskReq (s : State) :
    (invalidateGrid s).maskReq = s.maskReq := rfl
@[simp] theorem invalidateGrid_errCmd (s : State) :
    (invalidateGrid s).errCmd = s.errCmd := rfl
@[simp] theorem invalidateGrid_selMask (s : State) :
    (invalidateGrid s).selMask = noMask := rfl
@[simp] theorem invalidateGrid_penalty (s : State) :
    (invalidateGrid s).penalty = noPenalty := rfl
@[simp] theorem invalidateGrid_pens (s : State) :
    (invalidateGrid s).pens = noPens := rfl
@[simp] theorem invalidateGrid_bb (s : State) :
    (invalidateGrid s).bb = s.bb := rfl
@[simp] theorem invalidateGrid_cw (s : State) :
    (invalidateGrid s).cw = s.cw := rfl
@[simp] theorem invalidateGrid_grid (s : State) :
    (invalidateGrid s).grid = [] := rfl
@[simp] theorem invalidateGrid_out (s : State) :
    (invalidateGrid s).out = s.out := rfl
@[simp] theorem invalidateGrid_outCap (s : State) :
    (invalidateGrid s).outCap = s.outCap := rfl
@[simp] theorem invalidateGrid_port (s : State) :
    (invalidateGrid s).port = s.port := rfl

/-! `invalidateCW` -/

@[simp] theorem invalidateCW_err (s : State) :
    (invalidateCW s).err = s.err := rfl
@[simp] theorem invalidateCW_fault (s : State) :
    (invalidateCW s).fault = s.fault := rfl
@[simp] theorem invalidateCW_cwValid (s : State) :
    (invalidateCW s).cwValid = false := rfl
@[simp] theorem invalidateCW_gridState (s : State) :
    (invalidateCW s).gridState = .empty := rfl
@[simp] theorem invalidateCW_version (s : State) :
    (invalidateCW s).version = s.version := rfl
@[simp] theorem invalidateCW_ecl (s : State) :
    (invalidateCW s).ecl = s.ecl := rfl
@[simp] theorem invalidateCW_maskReq (s : State) :
    (invalidateCW s).maskReq = s.maskReq := rfl
@[simp] theorem invalidateCW_errCmd (s : State) :
    (invalidateCW s).errCmd = s.errCmd := rfl
@[simp] theorem invalidateCW_selMask (s : State) :
    (invalidateCW s).selMask = noMask := rfl
@[simp] theorem invalidateCW_penalty (s : State) :
    (invalidateCW s).penalty = noPenalty := rfl
@[simp] theorem invalidateCW_pens (s : State) :
    (invalidateCW s).pens = noPens := rfl
@[simp] theorem invalidateCW_bb (s : State) :
    (invalidateCW s).bb = s.bb := rfl
@[simp] theorem invalidateCW_cw (s : State) :
    (invalidateCW s).cw = [] := rfl
@[simp] theorem invalidateCW_grid (s : State) :
    (invalidateCW s).grid = [] := rfl
@[simp] theorem invalidateCW_out (s : State) :
    (invalidateCW s).out = s.out := rfl
@[simp] theorem invalidateCW_outCap (s : State) :
    (invalidateCW s).outCap = s.outCap := rfl
@[simp] theorem invalidateCW_port (s : State) :
    (invalidateCW s).port = s.port := rfl

/-! `complete` -/

@[simp] theorem complete_err (s : State) :
    (complete s).err = .ok := rfl
@[simp] theorem complete_fault (s : State) :
    (complete s).fault = s.fault := rfl
@[simp] theorem complete_cwValid (s : State) :
    (complete s).cwValid = s.cwValid := rfl
@[simp] theorem complete_gridState (s : State) :
    (complete s).gridState = s.gridState := rfl
@[simp] theorem complete_version (s : State) :
    (complete s).version = s.version := rfl
@[simp] theorem complete_ecl (s : State) :
    (complete s).ecl = s.ecl := rfl
@[simp] theorem complete_maskReq (s : State) :
    (complete s).maskReq = s.maskReq := rfl
@[simp] theorem complete_errCmd (s : State) :
    (complete s).errCmd = s.errCmd := rfl
@[simp] theorem complete_selMask (s : State) :
    (complete s).selMask = s.selMask := rfl
@[simp] theorem complete_penalty (s : State) :
    (complete s).penalty = s.penalty := rfl
@[simp] theorem complete_pens (s : State) :
    (complete s).pens = s.pens := rfl
@[simp] theorem complete_bb (s : State) :
    (complete s).bb = s.bb := rfl
@[simp] theorem complete_cw (s : State) :
    (complete s).cw = s.cw := rfl
@[simp] theorem complete_grid (s : State) :
    (complete s).grid = s.grid := rfl
@[simp] theorem complete_out (s : State) :
    (complete s).out = s.out := rfl
@[simp] theorem complete_outCap (s : State) :
    (complete s).outCap = s.outCap := rfl
@[simp] theorem complete_port (s : State) :
    (complete s).port = s.port := rfl

/-! `raiseError` -/

@[simp] theorem raiseError_err (e : ErrCode) (w : Word) (s : State) :
    (raiseError e w s).err = e := rfl
@[simp] theorem raiseError_fault (e : ErrCode) (w : Word) (s : State) :
    (raiseError e w s).fault = (s.fault || decide (e = .internalInconsistency)) := rfl
@[simp] theorem raiseError_cwValid (e : ErrCode) (w : Word) (s : State) :
    (raiseError e w s).cwValid = s.cwValid := rfl
@[simp] theorem raiseError_gridState (e : ErrCode) (w : Word) (s : State) :
    (raiseError e w s).gridState = s.gridState := rfl
@[simp] theorem raiseError_version (e : ErrCode) (w : Word) (s : State) :
    (raiseError e w s).version = s.version := rfl
@[simp] theorem raiseError_ecl (e : ErrCode) (w : Word) (s : State) :
    (raiseError e w s).ecl = s.ecl := rfl
@[simp] theorem raiseError_maskReq (e : ErrCode) (w : Word) (s : State) :
    (raiseError e w s).maskReq = s.maskReq := rfl
@[simp] theorem raiseError_errCmd (e : ErrCode) (w : Word) (s : State) :
    (raiseError e w s).errCmd = w := rfl
@[simp] theorem raiseError_selMask (e : ErrCode) (w : Word) (s : State) :
    (raiseError e w s).selMask = s.selMask := rfl
@[simp] theorem raiseError_penalty (e : ErrCode) (w : Word) (s : State) :
    (raiseError e w s).penalty = s.penalty := rfl
@[simp] theorem raiseError_pens (e : ErrCode) (w : Word) (s : State) :
    (raiseError e w s).pens = s.pens := rfl
@[simp] theorem raiseError_bb (e : ErrCode) (w : Word) (s : State) :
    (raiseError e w s).bb = s.bb := rfl
@[simp] theorem raiseError_cw (e : ErrCode) (w : Word) (s : State) :
    (raiseError e w s).cw = s.cw := rfl
@[simp] theorem raiseError_grid (e : ErrCode) (w : Word) (s : State) :
    (raiseError e w s).grid = s.grid := rfl
@[simp] theorem raiseError_out (e : ErrCode) (w : Word) (s : State) :
    (raiseError e w s).out = s.out := rfl
@[simp] theorem raiseError_outCap (e : ErrCode) (w : Word) (s : State) :
    (raiseError e w s).outCap = s.outCap := rfl
@[simp] theorem raiseError_port (e : ErrCode) (w : Word) (s : State) :
    (raiseError e w s).port = s.port := rfl

/-! `hostReset` -/

@[simp] theorem hostReset_err (s : State) :
    (hostReset s).err = State.reset.err := rfl
@[simp] theorem hostReset_fault (s : State) :
    (hostReset s).fault = State.reset.fault := rfl
@[simp] theorem hostReset_cwValid (s : State) :
    (hostReset s).cwValid = State.reset.cwValid := rfl
@[simp] theorem hostReset_gridState (s : State) :
    (hostReset s).gridState = State.reset.gridState := rfl
@[simp] theorem hostReset_version (s : State) :
    (hostReset s).version = State.reset.version := rfl
@[simp] theorem hostReset_ecl (s : State) :
    (hostReset s).ecl = State.reset.ecl := rfl
@[simp] theorem hostReset_maskReq (s : State) :
    (hostReset s).maskReq = State.reset.maskReq := rfl
@[simp] theorem hostReset_errCmd (s : State) :
    (hostReset s).errCmd = State.reset.errCmd := rfl
@[simp] theorem hostReset_selMask (s : State) :
    (hostReset s).selMask = State.reset.selMask := rfl
@[simp] theorem hostReset_penalty (s : State) :
    (hostReset s).penalty = State.reset.penalty := rfl
@[simp] theorem hostReset_pens (s : State) :
    (hostReset s).pens = State.reset.pens := rfl
@[simp] theorem hostReset_bb (s : State) :
    (hostReset s).bb = State.reset.bb := rfl
@[simp] theorem hostReset_cw (s : State) :
    (hostReset s).cw = State.reset.cw := rfl
@[simp] theorem hostReset_grid (s : State) :
    (hostReset s).grid = State.reset.grid := rfl
@[simp] theorem hostReset_out (s : State) :
    (hostReset s).out = s.out := rfl
@[simp] theorem hostReset_outCap (s : State) :
    (hostReset s).outCap = s.outCap := rfl
@[simp] theorem hostReset_port (s : State) :
    (hostReset s).port = s.port := rfl

/-! `issueFirst` -/

@[simp] theorem issueFirst_err (s : State) (w : Word) :
    (issueFirst s w).err = s.err := rfl
@[simp] theorem issueFirst_fault (s : State) (w : Word) :
    (issueFirst s w).fault = s.fault := rfl
@[simp] theorem issueFirst_cwValid (s : State) (w : Word) :
    (issueFirst s w).cwValid = s.cwValid := rfl
@[simp] theorem issueFirst_gridState (s : State) (w : Word) :
    (issueFirst s w).gridState = s.gridState := rfl
@[simp] theorem issueFirst_version (s : State) (w : Word) :
    (issueFirst s w).version = s.version := rfl
@[simp] theorem issueFirst_ecl (s : State) (w : Word) :
    (issueFirst s w).ecl = s.ecl := rfl
@[simp] theorem issueFirst_maskReq (s : State) (w : Word) :
    (issueFirst s w).maskReq = s.maskReq := rfl
@[simp] theorem issueFirst_errCmd (s : State) (w : Word) :
    (issueFirst s w).errCmd = s.errCmd := rfl
@[simp] theorem issueFirst_selMask (s : State) (w : Word) :
    (issueFirst s w).selMask = s.selMask := rfl
@[simp] theorem issueFirst_penalty (s : State) (w : Word) :
    (issueFirst s w).penalty = s.penalty := rfl
@[simp] theorem issueFirst_pens (s : State) (w : Word) :
    (issueFirst s w).pens = s.pens := rfl
@[simp] theorem issueFirst_bb (s : State) (w : Word) :
    (issueFirst s w).bb = s.bb := rfl
@[simp] theorem issueFirst_cw (s : State) (w : Word) :
    (issueFirst s w).cw = s.cw := rfl
@[simp] theorem issueFirst_grid (s : State) (w : Word) :
    (issueFirst s w).grid = s.grid := rfl
@[simp] theorem issueFirst_out (s : State) (w : Word) :
    (issueFirst s w).out = s.out := rfl
@[simp] theorem issueFirst_outCap (s : State) (w : Word) :
    (issueFirst s w).outCap = s.outCap := rfl
@[simp] theorem issueFirst_port (s : State) (w : Word) :
    (issueFirst s w).port = .command w :: s.port := rfl

/-! The version number of an updated state is that of its version field. -/

@[simp] theorem clearMaskResults_v (s : State) : (clearMaskResults s).v = s.v := rfl
@[simp] theorem invalidateGrid_v (s : State) : (invalidateGrid s).v = s.v := rfl
@[simp] theorem invalidateCW_v (s : State) : (invalidateCW s).v = s.v := rfl
@[simp] theorem complete_v (s : State) : (complete s).v = s.v := rfl
@[simp] theorem raiseError_v (e : ErrCode) (w : Word) (s : State) : (raiseError e w s).v = s.v := rfl
@[simp] theorem hostReset_v (s : State) : (hostReset s).v = 1 := rfl
@[simp] theorem issueFirst_v (s : State) (w : Word) : (issueFirst s w).v = s.v := rfl

/-- Resetting twice is resetting once (70_reset_and_hazards.md R340). -/
@[simp] theorem hostReset_hostReset (s : State) : hostReset (hostReset s) = hostReset s := rfl

end Sys2Proof.Machine
end

