-- ==== Sys2Proof/Laws/Memory.lean ====
section
/-! SUPPORT. The output buffer's list (Machine/Memory.lean): read after write, and that every operation keeps the
canonical form. -/

namespace Sys2Proof.Machine

@[simp] theorem Memory.read_nil (a : Nat) : Memory.read [] a = none := rfl

theorem Memory.read_cons (b : Nat) (w : Byte) (rest : Memory) (a : Nat) :
    Memory.read ((b, w) :: rest) a = if a = b then some w else Memory.read rest a := rfl

/-- Where every offset is above `a`, nothing is read at `a`. -/
theorem Memory.read_eq_none_of_lt {m : Memory} {a : Nat} (h : ∀ c ∈ m, a < c.1) : Memory.read m a = none := by
  induction m with
  | nil => rfl
  | cons c rest ih =>
    obtain ⟨b, w⟩ := c
    have hb : a < b := h (b, w) (by simp)
    rw [Memory.read_cons, if_neg (by omega)]
    exact ih fun c hc => h c (by simp [hc])

/-- A write is read back. -/
@[simp] theorem Memory.read_insert_same (m : Memory) (a : Nat) (v : Byte) :
    Memory.read (Memory.insert m a v) a = some v := by
  induction m with
  | nil => simp [Memory.insert, Memory.read_cons]
  | cons c rest ih =>
    obtain ⟨b, w⟩ := c
    rw [Memory.insert]
    split
    · simp [Memory.read_cons]
    · split
      · simp [Memory.read_cons]
      · rw [Memory.read_cons, if_neg ‹_›]; exact ih

/-- A write leaves every other offset alone. -/
theorem Memory.read_insert_other (m : Memory) {a i : Nat} (v : Byte) (h : i ≠ a) :
    Memory.read (Memory.insert m a v) i = Memory.read m i := by
  induction m with
  | nil => simp [Memory.insert, Memory.read_cons, h]
  | cons c rest ih =>
    obtain ⟨b, w⟩ := c
    rw [Memory.insert]
    split
    · rw [Memory.read_cons, if_neg h]
    · split
      · subst_vars; rw [Memory.read_cons, Memory.read_cons, if_neg h, if_neg h]
      · rw [Memory.read_cons, Memory.read_cons, ih]

/-- The offsets after a write are the offsets before it and the written one. -/
theorem Memory.mem_insert {m : Memory} {a : Nat} {v : Byte} {c : Host.Cell} (h : c ∈ Memory.insert m a v) :
    c = (a, v) ∨ c ∈ m := by
  induction m with
  | nil => simpa [Memory.insert] using h
  | cons d rest ih =>
    obtain ⟨b, w⟩ := d
    rw [Memory.insert] at h
    split at h
    · simpa using h
    · split at h
      · rcases List.mem_cons.mp h with h | h <;> simp [h]
      · rcases List.mem_cons.mp h with h | h
        · simp [h]
        · rcases ih h with h | h <;> simp [h]

/-- A write keeps the canonical form. -/
theorem Memory.insert_wf {m : Memory} (hm : Memory.wf m) (a : Nat) (v : Byte) : Memory.wf (Memory.insert m a v) := by
  induction m with
  | nil => simp [Memory.insert, Memory.wf]
  | cons c rest ih =>
    obtain ⟨b, w⟩ := c
    have hm' := List.pairwise_cons.mp hm
    have hrest : ∀ c ∈ rest, b < c.1 := fun c hc => hm'.1 c.1 (List.mem_map_of_mem hc)
    rw [Memory.insert]
    split
    · refine List.pairwise_cons.mpr ⟨?_, hm⟩
      intro x hx
      obtain ⟨c, hc, rfl⟩ := List.mem_map.mp hx
      rcases List.mem_cons.mp hc with rfl | hc
      · assumption
      · have := hrest c hc; omega
    · split
      · subst_vars
        exact List.pairwise_cons.mpr ⟨hm'.1, hm'.2⟩
      · refine List.pairwise_cons.mpr ⟨?_, ih hm'.2⟩
        intro x hx
        obtain ⟨c, hc, rfl⟩ := List.mem_map.mp hx
        rcases Memory.mem_insert hc with rfl | hc
        · simp only; omega
        · exact hrest c hc

/-- Writing the byte an offset already holds changes nothing, in the canonical form. -/
theorem Memory.insert_eq_self {m : Memory} (hm : Memory.wf m) {a : Nat} {v : Byte}
    (h : Memory.read m a = some v) : Memory.insert m a v = m := by
  induction m with
  | nil => simp at h
  | cons c rest ih =>
    obtain ⟨b, w⟩ := c
    have hm' := List.pairwise_cons.mp hm
    have hrest : ∀ c ∈ rest, b < c.1 := fun c hc => hm'.1 c.1 (List.mem_map_of_mem hc)
    rw [Memory.read_cons] at h
    rw [Memory.insert]
    split at h
    · subst_vars; cases h; simp
    · split
      · rw [Memory.read_eq_none_of_lt fun c hc => by have := hrest c hc; omega] at h
        simp at h
      · rw [ih hm'.2 h]

/-- Memory right after reset is in the canonical form. -/
theorem Memory.reset_wf : Memory.wf State.reset.out := List.Pairwise.nil

end Sys2Proof.Machine
end

