-- ==== Sys2Proof/Laws/Ops.lean ====
section
/-! SUPPORT. One lemma for each shared operation of Machine/Ops.lean that says once what it can do; proofs about
commands cite these and unfold no shared operation. -/

namespace Sys2Proof.Machine

/-! How a command ends. -/

@[simp] theorem finish_ok (w : Word) (s t : State) : finish w s (.ok t) = .next t := rfl

@[simp] theorem finish_raised (w : Word) (s : State) (e : ErrCode) :
    finish w s (.error (.raised e)) = .next (raiseError e w s) := rfl

@[simp] theorem finish_fault (w : Word) (s : State) (f : Fault) : finish w s (.error (.fault f)) = .fault f := rfl

/-- A command answers a next state in two ways only: its body completed, or its body raised an error, which was
raised on the state the command started from (60_exceptions.md R301, R303). -/
theorem finish_next {w : Word} {s t : State} {r : Body} (h : finish w s r = .next t) :
    r = .ok t ∨ ∃ e, r = .error (.raised e) ∧ t = raiseError e w s := by
  match r, h with
  | .ok u, h => cases h; exact .inl rfl
  | .error (.raised e), h => cases h; exact .inr ⟨e, rfl, rfl⟩

/-! The grid. -/

theorem Grid.get_eq (g : Grid) (x y : Nat) : g.get x y = (g.getD y []).getD x .unset := rfl

@[simp] theorem Grid.get_nil (x y : Nat) : Grid.get [] x y = .unset := by simp [Grid.get]

/-- A tabulated grid holds the function's cell inside, UNSET outside. -/
theorem Grid.get_tabulate (n : Nat) (f : Nat → Nat → Cell) (x y : Nat) :
    (Grid.tabulate n f).get x y = if x < n ∧ y < n then f x y else .unset := by
  unfold Grid.get Grid.tabulate
  by_cases hy : y < n
  · by_cases hx : x < n <;> simp [List.getD, hx, hy]
  · simp [List.getD, hy]

/-- Colouring one cell leaves every other cell alone. -/
theorem Grid.get_setDark (g : Grid) (x y : Nat) (b : Bool) (x' y' : Nat) :
    (g.setDark x y b).get x' y' =
      if x' = x ∧ y' = y then (g.get x' y').withDark b else g.get x' y' := by
  unfold Grid.get Grid.setDark
  simp only [List.getD, List.getElem?_modify]
  by_cases hy : y = y'
  · subst hy
    cases hrow : g[y]? with
    | none => by_cases hx : x' = x <;> simp [hx, Cell.withDark]
    | some row =>
      by_cases hx : x = x'
      · subst hx
        cases hc : row[x]? <;> simp [hc, Cell.withDark]
      · simp [hx, Ne.symm hx]
  · simp [hy, Ne.symm hy]

/-- Colouring one cell keeps the number of rows. -/
@[simp] theorem Grid.length_setDark (g : Grid) (x y : Nat) (b : Bool) : (g.setDark x y b).length = g.length := by
  simp [Grid.setDark]

/-- Colouring one cell keeps the rows' lengths. -/
theorem Grid.columns_setDark {g : Grid} {n : Nat} (h : ∀ row ∈ g, row.length = n) (x y : Nat) (b : Bool) :
    ∀ row ∈ g.setDark x y b, row.length = n := by
  intro row hrow
  obtain ⟨i, hi⟩ := List.getElem?_of_mem hrow
  rw [Grid.setDark, List.getElem?_modify] at hi
  cases hg : g[i]? with
  | none => simp [hg] at hi
  | some old =>
    have hold := h old (List.mem_of_getElem? hg)
    rw [hg] at hi
    obtain rfl : (if y = i then old.modify x (Cell.withDark b) else old) = row := by simpa using hi
    split <;> simp [hold]

@[simp] theorem Grid.length_tabulate (n : Nat) (f : Nat → Nat → Cell) : (Grid.tabulate n f).length = n := by
  simp [Grid.tabulate]

theorem Grid.columns_tabulate (n : Nat) (f : Nat → Nat → Cell) : ∀ row ∈ Grid.tabulate n f, row.length = n := by
  intro row hrow
  obtain ⟨y, -, rfl⟩ := List.mem_map.mp hrow
  simp

/-- The grid of a legal version fits the module grid's array (00_scope.md R6, 42_config.md R124). -/
theorem side_le_sizeMax {v : Nat} (h : v ≤ Config.vMax) : side v ≤ Config.sizeMax := by
  simp only [side, Config.vMax, Config.sizeMax] at *
  omega

/-- `SIZE_MAX` is the side at the highest version (R6). -/
theorem side_vMax : side Config.vMax = Config.sizeMax := rfl

/-! Writing OUT. -/

/-- A byte within the buffer is written (20_memory.md R59). -/
theorem writeOut_ok {s : State} {a : Nat} (h : a < s.outCap) (v : Byte) :
    writeOut s a v = .ok { s with out := Memory.insert s.out a v } := if_pos h

/-- Bytes that fit the buffer are all written, and nothing else changes: offset `a + k` then holds byte `k`,
every other offset what it held. -/
theorem writeOutBytes_ok (bytes : List Byte) (s : State) (a : Nat) (h : a + bytes.length ≤ s.outCap) :
    ∃ m, writeOutBytes s a bytes = .ok { s with out := m }
      ∧ (Memory.wf s.out → Memory.wf m)
      ∧ ((∀ c ∈ s.out, c.1 < s.outCap) → ∀ c ∈ m, c.1 < s.outCap)
      ∧ ∀ i, Memory.read m i =
          if a ≤ i ∧ i < a + bytes.length then bytes[i - a]? else Memory.read s.out i := by
  induction bytes generalizing s a with
  | nil => exact ⟨s.out, rfl, id, id, fun i => by rw [if_neg (by simp)]⟩
  | cons v rest ih =>
    simp only [List.length_cons] at h
    obtain ⟨m, hm, hwf, hin, hread⟩ :=
      ih { s with out := Memory.insert s.out a v } (a + 1) (by simpa using (by omega : a + 1 + rest.length ≤ s.outCap))
    refine ⟨m, ?_, fun hs => hwf (Memory.insert_wf hs a v), ?_, ?_⟩
    · rw [writeOutBytes, writeOut_ok (by omega)]; exact hm
    · intro hs
      refine hin fun c hc => ?_
      rcases Memory.mem_insert hc with rfl | hc
      · simp only; omega
      · exact hs c hc
    · intro i
      rw [hread i]
      by_cases hi : i = a
      · subst hi
        rw [if_neg (by omega), if_pos (by simp), Memory.read_insert_same]
        simp
      · rw [Memory.read_insert_other _ _ hi]
        by_cases hr : a + 1 ≤ i ∧ i < a + 1 + rest.length
        · rw [if_pos hr, if_pos (by simp only [List.length_cons]; omega)]
          obtain ⟨k, rfl⟩ : ∃ k, i = a + 1 + k := ⟨i - (a + 1), by omega⟩
          simp [show a + 1 + k - a = k + 1 by omega]
        · rw [if_neg hr, if_neg (by simp only [List.length_cons]; omega)]

/-- The output image has `OUT_LEN(v)` bytes (46_output.md R260). -/
@[simp] theorem length_outImage (v : Nat) (g : Grid) : (outImage v g).length = outLen v := by
  simp [outImage, outLen]

/-! The port. -/

/-- What one step can do (R305, R310, R314): idle; reset; ignore a word under FAULT; turn a word away; or run the
decoded command on the state with the word taken from the port. -/
theorem step_cases {s t : State} (h : step s = .next t) :
    (s.port = [] ∧ t = s)
    ∨ (∃ rest, s.port = .reset :: rest ∧ t = hostReset { s with port := rest })
    ∨ (∃ w rest, s.port = .command w :: rest ∧ s.fault = true ∧ t = { s with port := rest })
    ∨ (∃ w rest d, s.port = .command w :: rest ∧ s.fault = false ∧ decode w = .error d
        ∧ t = raiseError .illegalCommand w { s with port := rest })
    ∨ (∃ w rest i, s.port = .command w :: rest ∧ s.fault = false ∧ decode w = .ok i
        ∧ exec i { s with port := rest } = .next t) := by
  unfold step servePort at h
  match hp : s.port with
  | [] => rw [hp] at h; cases h; exact .inl ⟨rfl, rfl⟩
  | .reset :: rest => rw [hp] at h; cases h; exact .inr (.inl ⟨rest, rfl, rfl⟩)
  | .command w :: rest =>
    rw [hp] at h
    simp only [serve, execWord] at h
    split at h
    · cases h; exact .inr (.inr (.inl ⟨w, rest, rfl, ‹_›, rfl⟩))
    · have hf : s.fault = false := by cases hf : s.fault <;> simp_all
      split at h
      · cases h
        exact .inr (.inr (.inr (.inl ⟨w, rest, _, rfl, hf, ‹_›, rfl⟩)))
      · exact .inr (.inr (.inr (.inr ⟨w, rest, _, rfl, hf, ‹_›, h⟩)))

end Sys2Proof.Machine
end

