-- ==== Sys2Proof/Laws/Bodies.lean ====
section
/-! SUPPORT. What each command's body can do, once for each: the conditions of its pseudocode and, under each,
how it ends. Proofs about a command split on these and unfold no body. -/

namespace Sys2Proof.Machine

/-- BB_APPEND's three ways to end (41_bitbuffer.md R103). -/
theorem bbAppendBody_cases (n : BitVec 5) (x : BitVec 16) (s : State) :
    ((n.toNat > 16 ∨ x.toNat ≥ 2 ^ n.toNat) ∧ bbAppendBody n x s = .error (.raised .illegalCommand))
    ∨ (n.toNat ≤ 16 ∧ x.toNat < 2 ^ n.toNat ∧ s.bb.length + n.toNat > Config.bbCapBits
        ∧ bbAppendBody n x s = .error (.raised .internalInconsistency))
    ∨ (n.toNat ≤ 16 ∧ x.toNat < 2 ^ n.toNat ∧ s.bb.length + n.toNat ≤ Config.bbCapBits
        ∧ bbAppendBody n x s
          = .ok (complete (invalidateCW { s with bb := s.bb ++ bitsMsbFirst n.toNat x }))) := by
  unfold bbAppendBody
  split
  · exact .inl ⟨‹_›, rfl⟩
  · obtain ⟨hn, hx⟩ := not_or.mp ‹¬(_ ∨ _)›
    split
    · exact .inr (.inl ⟨by omega, by omega, ‹_›, rfl⟩)
    · exact .inr (.inr ⟨by omega, by omega, by omega, rfl⟩)

/-- CFG_SET's three ways to end (42_config.md R121). -/
theorem cfgSetBody_cases (mask : BitVec 4) (e : Ecl) (ver : BitVec 6) (s : State) :
    (maskReqOfField mask = none ∧ cfgSetBody mask e ver s = .error (.raised .illegalCommand))
    ∨ (∃ req, maskReqOfField mask = some req ∧ (ver.toNat < 1 ∨ ver.toNat > 40)
        ∧ cfgSetBody mask e ver s = .error (.raised .invalidVersionRange))
    ∨ (∃ req, maskReqOfField mask = some req ∧ 1 ≤ ver.toNat ∧ ver.toNat ≤ 40
        ∧ cfgSetBody mask e ver s
          = .ok (complete (invalidateCW { s with version := ver, ecl := e, maskReq := req }))) := by
  unfold cfgSetBody
  cases maskReqOfField mask with
  | none => exact .inl ⟨rfl, rfl⟩
  | some req =>
    by_cases hv : ver.toNat < 1 ∨ ver.toNat > 40
    · exact .inr (.inl ⟨req, rfl, hv, if_pos hv⟩)
    · exact .inr (.inr ⟨req, rfl, by omega, by omega, if_neg hv⟩)

/-- RS_ENCODE's two ways to end (43_reed_solomon.md R160). -/
theorem rsEncodeBody_cases (s : State) :
    (s.bb.length ≠ 8 * dataCw s.v s.ecl ∧ rsEncodeBody s = .error (.raised .internalInconsistency))
    ∨ (s.bb.length = 8 * dataCw s.v s.ecl
        ∧ rsEncodeBody s
          = .ok (complete { invalidateGrid s with cw := finalCodewords s.v s.ecl s.bb, cwValid := true })) := by
  unfold rsEncodeBody
  split
  · exact .inl ⟨‹_›, rfl⟩
  · exact .inr ⟨not_not.mp ‹_›, rfl⟩

/-- GRID_BUILD's three ways to end (44_grid_layout.md R195). -/
theorem gridBuildBody_cases (s : State) :
    (s.cwValid = false ∧ gridBuildBody s = .error (.raised .stageError))
    ∨ (s.cwValid = true ∧ s.cw.length ≠ rawCw s.v ∧ gridBuildBody s = .error (.raised .internalInconsistency))
    ∨ (s.cwValid = true ∧ s.cw.length = rawCw s.v
        ∧ gridBuildBody s
          = .ok (complete (clearMaskResults { s with grid := placedGrid s.v s.cw, gridState := .placed }))) := by
  unfold gridBuildBody
  split
  · exact .inl ⟨‹_›, rfl⟩
  · split
    · exact .inr (.inl ⟨Bool.eq_true_of_not_eq_false ‹_›, ‹_›, rfl⟩)
    · exact .inr (.inr ⟨Bool.eq_true_of_not_eq_false ‹_›, by omega, rfl⟩)

/-- MASK_SELECT's two ways to end (45_mask_select.md R232). -/
theorem maskSelectBody_cases (s : State) :
    (s.gridState ≠ .placed ∧ maskSelectBody s = .error (.raised .stageError))
    ∨ (s.gridState = .placed
        ∧ maskSelectBody s = .ok (complete { s with
            grid := (selectMask s.v s.ecl s.grid s.maskReq).grid
            gridState := .final
            selMask := BitVec.ofNat 4 (selectMask s.v s.ecl s.grid s.maskReq).mask.val
            penalty := BitVec.ofNat 32 (selectMask s.v s.ecl s.grid s.maskReq).score
            pens := pensOf s.v s.ecl s.grid s.maskReq })) := by
  unfold maskSelectBody
  split
  · exact .inl ⟨‹_›, rfl⟩
  · exact .inr ⟨not_not.mp ‹_›, rfl⟩

/-- OUT_WRITE's three ways to end (46_output.md R261). -/
theorem outWriteBody_cases (s : State) :
    (s.gridState ≠ .final ∧ outWriteBody s = .error (.raised .stageError))
    ∨ (s.gridState = .final ∧ s.outCap < outLen s.v ∧ outWriteBody s = .error (.raised .bufferTooSmall))
    ∨ (s.gridState = .final ∧ outLen s.v ≤ s.outCap
        ∧ ∃ m, outWriteBody s = .ok (complete { s with out := m })
          ∧ (Memory.wf s.out → Memory.wf m)
          ∧ ((∀ c ∈ s.out, c.1 < s.outCap) → ∀ c ∈ m, c.1 < s.outCap)
          ∧ ∀ i, Memory.read m i =
              if i < outLen s.v then (outImage s.v s.grid)[i]? else Memory.read s.out i) := by
  unfold outWriteBody
  split
  · exact .inl ⟨‹_›, rfl⟩
  · have hg : s.gridState = .final := not_not.mp ‹_›
    split
    · exact .inr (.inl ⟨hg, ‹_›, rfl⟩)
    · obtain ⟨m, hm, hwf, hin, hread⟩ :=
        writeOutBytes_ok (outImage s.v s.grid) s 0 (by rw [length_outImage]; omega)
      refine .inr (.inr ⟨hg, by omega, m, by rw [hm]; rfl, hwf, hin, fun i => ?_⟩)
      rw [hread i]
      simp

end Sys2Proof.Machine
end

