-- ==== Sys2Proof/Laws/Encoding.lean ====
section
/-! SUPPORT. The encoder's words as numbers, field by field (30_encoding.md R70 to R74): proofs about decoding and
encoding cite these and unfold no concatenation. -/

namespace Sys2Proof

/-- The number of a concatenation. -/
theorem toNat_append {m n : Nat} (a : BitVec m) (b : BitVec n) : (a ++ b).toNat = a.toNat * 2 ^ n + b.toNat := by
  rw [BitVec.toNat_append, Nat.shiftLeft_eq, Nat.mul_comm, Nat.two_pow_add_eq_or_of_lt b.isLt, Nat.mul_comm]

/-- A word is its opcode and its 24 operand bits (R70). -/
theorem encode_toNat (i : Instr) : (encode i).toNat = (opcodeOf i).toNat * 2 ^ 24 + (operandBits i).toNat :=
  toNat_append (opcodeOf i) (operandBits i)

/-- Format A's operand bits (R72). -/
theorem operandBits_bbAppend (n : BitVec 5) (x : BitVec 16) :
    (operandBits (.bbAppend n x)).toNat = n.toNat * 2 ^ 16 + x.toNat := by
  rw [operandBits]
  erw [toNat_append, toNat_append]
  simp

/-- Format C's operand bits (R73). -/
theorem operandBits_cfgSet (mask : BitVec 4) (e : Ecl) (ver : BitVec 6) :
    (operandBits (.cfgSet mask e ver)).toNat = mask.toNat * 2 ^ 12 + (eclToBits e).toNat * 2 ^ 8 + ver.toNat := by
  rw [operandBits]
  erw [toNat_append, toNat_append, toNat_append, toNat_append, toNat_append]
  simp
  omega

/-- A field of a word as a number. -/
theorem field_toNat (w : Word) (lo len : Nat) : (w.extractLsb' lo len).toNat = w.toNat / 2 ^ lo % 2 ^ len := by
  rw [BitVec.extractLsb'_toNat, Nat.shiftRight_eq_div_pow]

/-- The opcode of a word as a number (R70). -/
theorem opcodeField_toNat (w : Word) : (opcodeField w).toNat = w.toNat / 2 ^ 24 := by
  rw [opcodeField, field_toNat]
  have := w.isLt
  omega

/-- The two maps between levels and ECL field bits are inverse (42_config.md R122). -/
@[simp] theorem eclOfBits_eclToBits (e : Ecl) : eclOfBits (eclToBits e) = e := by cases e <;> rfl

@[simp] theorem eclToBits_eclOfBits (b : BitVec 2) : eclToBits (eclOfBits b) = b := by
  revert b; decide

end Sys2Proof
end

