-- ==== Sys2Proof/Laws/PerInstr.lean ====
section
/-! SUPPORT. Statements about every command as syntax, one lemma for each constructor. -/

namespace Sys2Proof.Laws.TableRow

/-- The `fixed` bits of a command's row in spec/opcode_table.json, as (hi, lo, value). -/
def fixedFields : Instr → List (Nat × Nat × Nat)
  | .bbClear => [(31, 0, 16777216)]
  | .bbAppend _ _ => [(31, 21, 16)]
  | .cfgSet _ _ _ => [(7, 6, 0), (11, 10, 0), (31, 16, 4096)]
  | .rsEncode => [(31, 0, 536870912)]
  | .gridBuild => [(31, 0, 805306368)]
  | .maskSelect => [(31, 0, 1073741824)]
  | .outWrite => [(31, 0, 1342177280)]
  | .encode => [(31, 0, 1610612736)]

/-- The word of a command has the value its row fixes in every field its row fixes. -/
def Statement (i : Instr) : Prop :=
  ∀ f ∈ fixedFields i, (Sys2Proof.encode i).toNat / 2 ^ f.2.1 % 2 ^ (f.1 + 1 - f.2.1) = f.2.2

theorem bbClear : Statement .bbClear := by unfold Statement; decide

theorem bbAppend (nbits : BitVec 5) (value : BitVec 16) : Statement (.bbAppend nbits value) := by
  have h := encode_toNat (.bbAppend nbits value)
  rw [operandBits_bbAppend, show (opcodeOf (.bbAppend nbits value)).toNat = 2 from rfl] at h
  have := nbits.isLt
  have := value.isLt
  simp only [Statement, fixedFields, List.forall_mem_singleton]
  omega

theorem cfgSet (mask : BitVec 4) (ecl : Ecl) (version : BitVec 6) : Statement (.cfgSet mask ecl version) := by
  have h := encode_toNat (.cfgSet mask ecl version)
  rw [operandBits_cfgSet, show (opcodeOf (.cfgSet mask ecl version)).toNat = 16 from rfl] at h
  have := mask.isLt
  have := (eclToBits ecl).isLt
  have := version.isLt
  simp only [Statement, fixedFields, List.forall_mem_cons, List.not_mem_nil, false_implies,
    implies_true, and_true]
  omega

theorem rsEncode : Statement .rsEncode := by unfold Statement; decide

theorem gridBuild : Statement .gridBuild := by unfold Statement; decide

theorem maskSelect : Statement .maskSelect := by unfold Statement; decide

theorem outWrite : Statement .outWrite := by unfold Statement; decide

theorem encode : Statement .encode := by unfold Statement; decide

end Sys2Proof.Laws.TableRow
end

