-- ==== Sys2Proof/Machine/Assembler.lean ====
section
/-! DEFINITION. The textual form of a command (30_encoding.md R79) read into an assembler line: one command a
line, `;` starts a comment, numbers are decimal, `0x` hexadecimal or `0b` binary. What R79 leaves open (blanks,
letter case, an empty line) is said in log 12. A line is a list of characters. -/

namespace Sys2Proof.Machine

/-- The text before a comment (R79). -/
def dropComment (line : List Char) : List Char := line.takeWhile fun c => c != ';'

/-- The words of a line, split at blanks; a comma is a word of its own. `cur` is the word being read, last
character first. -/
def tokensFrom (cur : List Char) : List Char → List (List Char)
  | [] => if cur.isEmpty then [] else [cur.reverse]
  | c :: cs =>
    if c = ' ' ∨ c = '\t' then (if cur.isEmpty then [] else [cur.reverse]) ++ tokensFrom [] cs
    else if c = ',' then (if cur.isEmpty then [] else [cur.reverse]) ++ [','] :: tokensFrom [] cs
    else tokensFrom (c :: cur) cs

/-- The value of a digit, of either letter case. -/
def digitValue (c : Char) : Option Nat :=
  let n := c.toNat
  if 48 ≤ n ∧ n ≤ 57 then some (n - 48)
  else if 65 ≤ n ∧ n ≤ 70 then some (n - 55)
  else if 97 ≤ n ∧ n ≤ 102 then some (n - 87)
  else none

/-- Digits of a base read from the left onto `acc`. -/
def digitsFrom (base acc : Nat) : List Char → Option Nat
  | [] => some acc
  | c :: cs =>
    match digitValue c with
    | some d => if d < base then digitsFrom base (base * acc + d) cs else none
    | none => none

/-- A number: decimal, `0x` hexadecimal or `0b` binary, of at least one digit (R79). -/
def parseNumber (tok : List Char) : Option Nat :=
  match tok with
  | '0' :: 'x' :: d :: ds => digitsFrom 16 0 (d :: ds)
  | '0' :: 'b' :: d :: ds => digitsFrom 2 0 (d :: ds)
  | d :: ds => digitsFrom 10 0 (d :: ds)
  | [] => none

/-- The level operand: `L`, `M`, `Q`, `H` or a number (R79). -/
def parseLevel (tok : List Char) : Option Nat :=
  match tok with
  | ['L'] => some 0
  | ['M'] => some 1
  | ['Q'] => some 2
  | ['H'] => some 3
  | _ => parseNumber tok

/-- The mask operand: `auto` or a number (R79). -/
def parseMask (tok : List Char) : Option (Option Nat) :=
  if tok = ['a', 'u', 't', 'o'] then some none else (parseNumber tok).map some

/-- The mnemonics that take no operand (R79). -/
def plainLines : List (List Char × AsmLine) :=
  [ ("BB_CLEAR".toList, .bbClear), ("RS_ENCODE".toList, .rsEncode), ("GRID_BUILD".toList, .gridBuild),
    ("MASK_SELECT".toList, .maskSelect), ("OUT_WRITE".toList, .outWrite), ("ENCODE".toList, .encode) ]

/-- A mnemonic and its operands as a line of R79 or R80; `none` where it is neither. -/
def parseTokens (mnemonic : List Char) (operands : List (List Char)) : Option AsmLine :=
  match operands with
  | [] => (plainLines.find? fun p => p.1 == mnemonic).map Prod.snd
  | [a] =>
    if mnemonic = "BB_BYTE".toList then (parseNumber a).map .bbByte
    else if mnemonic = "BB_PAD".toList then (parseNumber a).map .bbPad
    else none
  | [a, [','], b] =>
    if mnemonic = "CFG_AUTO".toList then
      match parseNumber a, parseLevel b with
      | some v, some e => some (.cfgAuto v e)
      | _, _ => none
    else
      match parseNumber a, parseNumber b with
      | some n, some v =>
        if mnemonic = "BB_APPEND".toList then some (.bbAppend n v)
        else if mnemonic = "BB_BITS".toList then some (.bbBits n v)
        else none
      | _, _ => none
  | [a, [','], b, [','], c] =>
    if mnemonic = "CFG_SET".toList then
      match parseNumber a, parseLevel b, parseMask c with
      | some v, some e, some m => some (.cfgSet v e m)
      | _, _, _ => none
    else none
  | _ => none

/-- The command words of one line of text; a line with no word on it gives none, and `none` is a refusal
(R79, R80). -/
def assembleText (line : List Char) : Option (List Word) :=
  match tokensFrom [] (dropComment line) with
  | [] => some []
  | mnemonic :: operands => ((parseTokens mnemonic operands).bind assemble).map fun is => is.map encode

end Sys2Proof.Machine
end

