-- ==== Sys2Proof/Tests/Slice0.lean ====
section
/-! SUPPORT. The model's own tests: words written out from the formats of 30_encoding.md, vectors of
95_test_vectors.md, each about one step on a small state, and a witness for every statement that has premises. -/

namespace Sys2Proof.Tests

open Sys2Proof Sys2Proof.Machine

set_option Elab.async false

/-! ### Helpers -/

/-- The bits of bytes, each byte's most significant bit first (41_bitbuffer.md R101). -/
def bitsOf (bytes : List Byte) : List Bool := bytes.flatMap fun b => (List.range 8).map fun j => b.getLsbD (7 - j)

/-- A picture of 95_test_vectors.md as rows of dark bits. -/
def picture (rows : List String) : List (List Bool) := rows.map fun r => r.toList.map fun c => c == '#'

/-- The dark bits of a grid of side `n`. -/
def darkRows (n : Nat) (g : Grid) : List (List Bool) :=
  (List.range n).map fun y => (List.range n).map fun x => g.darkAt x y

/-- A version 1 grid with the picture's colours and the function bits of R180. -/
def gridOf (rows : List (List Bool)) : Grid :=
  Grid.tabulate 21 fun x y => .set ((rows.getD y []).getD x false) (isFunc 1 x y)

/-- The next state of an outcome, if it is one. -/
def nextOf (o : Host.Outcome State Fault Refusal) : Option State :=
  match o with
  | .next t => some t
  | _ => none

/-- Does an outcome answer a next state that passes a check? -/
def nextWith (o : Host.Outcome State Fault Refusal) (check : State → Bool) : Bool :=
  match o with
  | .next t => check t
  | _ => false

theorem exists_of_nextWith {o : Host.Outcome State Fault Refusal} {check : State → Bool}
    (h : nextWith o check = true) : ∃ t, o = .next t ∧ check t = true := by
  cases o with
  | next t => exact ⟨t, rfl, h⟩
  | fault f => simp [nextWith] at h
  | refused r => simp [nextWith] at h

/-- The HELLO data codewords (95_test_vectors.md E1). -/
def helloData : List Byte :=
  [0x40, 0x54, 0x84, 0x54, 0xC4, 0xC4, 0xF0, 0xEC, 0x11, 0xEC, 0x11, 0xEC, 0x11, 0xEC, 0x11, 0xEC, 0x11, 0xEC, 0x11]

/-- The HELLO ECC codewords (E1). -/
def helloEcc : List Byte := [0x4D, 0x2A, 0xD3, 0xBB, 0x9F, 0x20, 0x84]

/-- P1's PLACED grid. -/
def placedPicture : List String :=
  [ "#######..###..#######",
    "#.....#...#...#.....#",
    "#.###.#..###..#.###.#",
    "#.###.#.......#.###.#",
    "#.###.#.......#.###.#",
    "#.....#..#.##.#.....#",
    "#######.#.#.#.#######",
    "............#........",
    "......#..#.##........",
    ".#...#.###.#.###.#...",
    "....#.#.#.....#..#.#.",
    "#..###.#####.###.#...",
    "....###.##..........#",
    ".................##..",
    "#######...####.##..#.",
    "#.....#...#.#...##.#.",
    "#.###.#...####.##..#.",
    "#.###.#..###.##..##..",
    "#.###.#..#....#......",
    "#.....#....#.#####...",
    "#######..##....##..#." ]

/-- P1's FINAL grid. -/
def finalPicture : List String :=
  [ "#######..#.##.#######",
    "#.....#..###..#.....#",
    "#.###.#.##.##.#.###.#",
    "#.###.#..#.#..#.###.#",
    "#.###.#...#.#.#.###.#",
    "#.....#.....#.#.....#",
    "#######.#.#.#.#######",
    "........##.##........",
    "###.########.##...#..",
    "...#....#.....#....#.",
    "#.#...#...#.#...#####",
    "##..#...#.#...#....#.",
    "#.#..##..##.#.#.#.#..",
    "........##.#.#.#..##.",
    "#######.#..#.###..###",
    "#.....#.######.##....",
    "#.###.#.#..#.###..###",
    "#.###.#...#...##..##.",
    "#.###.#.###.#...#.#.#",
    "#.....#.##....#.#..#.",
    "#######.##..#.##..###" ]

/-- P1's OUT[0..56]. -/
def helloOut : List Byte :=
  [0x15, 0x7F, 0xDA, 0x3F, 0xC8, 0x09, 0x76, 0x6D, 0xDD, 0x2E, 0xA5, 0xDB, 0x45, 0x75, 0x83, 0xA0,
    0xE0, 0x5F, 0xF5, 0x07, 0xD8, 0x00, 0xF7, 0x6F, 0x04, 0x21, 0x08, 0x15, 0x51, 0xFC, 0x89, 0x22,
    0x54, 0x66, 0x55, 0x00, 0x56, 0xD9, 0x5F, 0x3A, 0x0F, 0xFA, 0x0D, 0x5D, 0xE9, 0xBC, 0x8B, 0x98,
    0x75, 0x5D, 0xD4, 0xA0, 0xA1, 0xF4, 0x37, 0xCD, 0x01]

/-! ### Decoding: words written out bit by bit from the formats (30_encoding.md R71 to R75) -/

theorem test_decode_bbClear : decode (0b00000001_000000000000000000000000#32) = .ok .bbClear := by decide

theorem test_decode_bbAppend :
    decode (0b00000010_000_01000_0000000001001000#32) = .ok (.bbAppend 8 0x48) := by decide

theorem test_decode_cfgSet :
    decode (0b00010000_00000000_1111_00_10_00_000101#32) = .ok (.cfgSet 0xF .quartile 5) := by decide

theorem test_decode_cfgSet_version_zero_decodes :
    decode (0b00010000_00000000_0011_00_11_00_000000#32) = .ok (.cfgSet 3 .high 0) := by decide

theorem test_decode_rsEncode : decode (0b00100000_000000000000000000000000#32) = .ok .rsEncode := by decide

theorem test_decode_gridBuild : decode (0b00110000_000000000000000000000000#32) = .ok .gridBuild := by decide

theorem test_decode_maskSelect : decode (0b01000000_000000000000000000000000#32) = .ok .maskSelect := by decide

theorem test_decode_outWrite : decode (0b01010000_000000000000000000000000#32) = .ok .outWrite := by decide

theorem test_decode_encode : decode (0b01100000_000000000000000000000000#32) = .ok .encode := by decide

/-- The rejected words of 95_test_vectors.md section 3.1, with the reason each row gives. -/
theorem test_decode_rejects :
    [0x00000000, 0x03000000, 0xFF000000, 0x61000000].all (fun w => decide (decode w = .error .unassignedOpcode))
    ∧ [0x01000001, 0x01800000, 0x60000001, 0x02200000, 0x1000F040, 0x1000FC01, 0x10018001].all
        (fun w => decide (decode w = .error .reservedField))
    ∧ [0x02000001, 0x02110000, 0x021F0000, 0x02030008, 0x10008001, 0x1000E001, 0x10008000].all
        (fun w => decide (decode w = .error .illegalOperand)) := by decide

/-- The words of the assembler's forms (30_encoding.md R79) and of R80's long append. -/
theorem test_assemble :
    (assemble (.bbAppend 4 4)).map (·.map encode) = some [0x02040004]
    ∧ (assemble (.cfgSet 1 1 (some 2))).map (·.map encode) = some [0x10002101]
    ∧ (assemble (.bbPad 3)).map (·.map encode) = some [0x020800EC, 0x02080011, 0x020800EC]
    ∧ (assemble (.bbBits 20 0x51234)).map (·.map encode) = some [0x02040005, 0x02101234] := by decide

/-- Lines of P1 and P5 as text. -/
theorem test_assembleText :
    assembleText "BB_APPEND 4, 0b0100        ; BYTE mode".toList = some [0x02040004]
    ∧ assembleText "CFG_SET 1, L, auto".toList = some [0x1000F001]
    ∧ assembleText "BB_APPEND 8, 0xEC".toList = some [0x020800EC]
    ∧ assembleText "ENCODE          ; STATUS 07".toList = some [0x60000000]
    ∧ assembleText "BB_APPEND 3, 8".toList = none := by decide +kernel

/-! ### Well-formedness refuses -/

theorem test_illFormed_nbits : (Instr.bbAppend 17 0).wellFormed = false := by decide

theorem test_illFormed_value : (Instr.bbAppend 3 8).wellFormed = false := by decide

theorem test_illFormed_mask : (Instr.cfgSet 8 .low 1).wellFormed = false := by decide

theorem test_wellFormed_edges :
    (Instr.bbAppend 16 0xFFFF).wellFormed = true ∧ (Instr.bbAppend 0 0).wellFormed = true
    ∧ (Instr.cfgSet 15 .high 63).wellFormed = true := by decide

/-! ### The commands -/

/-- 95_test_vectors.md section 3.2: BB_CLEAR on 12 bits. -/
theorem test_bbClear :
    nextWith (exec .bbClear { State.reset with bb := List.replicate 12 true, cw := [1], cwValid := true })
      (fun t => t.bb == [] && readReg t 0 == 0 && readReg t 0x0A == 0) = true := by decide +kernel

/-- Section 3.2, row 2: three bits 101 and then 16 bits 0x8001 read B0 00 20. -/
theorem test_bbAppend_bytes :
    nextWith (exec (.bbAppend 16 0x8001) { State.reset with bb := [true, false, true] })
      (fun t => readReg t 2 == 19 && (List.range 4).map (readBB t) == [0xB0, 0x00, 0x20, 0x00]) = true := by
  decide +kernel

/-- Section 3.1: VALUE 8 does not fit three bits; nothing is appended. -/
theorem test_bbAppend_refuses :
    nextWith (execWord 0x02030008 State.reset)
      (fun t => t == { State.reset with err := .illegalCommand, errCmd := 0x02030008 }) = true := by decide +kernel

/-- Section 3.3: `CFG_SET 10, M, auto`. -/
theorem test_cfgSet :
    nextWith (execWord 0x1000F10A State.reset)
      (fun t => readReg t 1 == 0xF10A
        && (List.range 6).map (fun k => readReg t (4 + k)) == [57, 216, 346, 5, 26, 408]) = true := by
  decide +kernel

/-- Section 3.1: version 41 is InvalidVersionRange, an illegal mask with version 0 IllegalCommand. -/
theorem test_cfgSet_errors :
    nextWith (execWord 0x1000F029 State.reset) (fun t => readReg t 0 == 3 && readReg t 1 == 0xF001) = true
    ∧ nextWith (execWord 0x10008000 State.reset) (fun t => readReg t 0 == 5) = true := by decide +kernel

/-- Program P1: the HELLO codewords. -/
theorem test_rsEncode :
    nextWith (exec .rsEncode { State.reset with bb := bitsOf helloData })
      (fun t => t.cw == helloData ++ helloEcc && readReg t 0 == 0x20) = true := by decide +kernel

/-- Program P3: RS_ENCODE on 8 bits faults, and the next word is ignored. -/
theorem test_rsEncode_fault :
    nextWith (exec .rsEncode { State.reset with bb := bitsOf [0xAB] })
      (fun t => readReg t 0 == 0x14 && readReg t 3 == 0x20000000
        && nextWith (execWord 0x01000000 t) (fun u => u == t)) = true := by decide +kernel

/-- Program P1: the PLACED grid. -/
theorem test_gridBuild :
    nextWith (exec .gridBuild { State.reset with cw := helloData ++ helloEcc, cwValid := true })
      (fun t => darkRows 21 t.grid == picture placedPicture && readReg t 0 == 0x60) = true := by decide +kernel

/-- Program P1 with its mask forced: the FINAL grid and the penalty of mask 0 (section 3.6). -/
theorem test_maskSelect :
    nextWith (exec .maskSelect
        { State.reset with
          cwValid := true, maskReq := .forced 0, grid := gridOf (picture placedPicture), gridState := .placed })
      (fun t => readReg t 0x0C == 1026 && readReg t 0x0B == 0 && readReg t 0 == 0xA0
        && darkRows 21 t.grid == picture finalPicture) = true := by decide +kernel

/-- Section 3.6: MASK_SELECT from FINAL is a StageError. -/
theorem test_maskSelect_final :
    nextWith (exec .maskSelect { State.reset with cwValid := true, gridState := .final })
      (fun t => readReg t 0 == 0xA6) = true := by decide +kernel

/-- Program P1: OUT[0..56], with the bytes after it untouched. -/
theorem test_outWrite :
    nextWith (exec .outWrite
        { State.reset with
          outCap := 57, grid := gridOf (picture finalPicture), gridState := .final, out := [(60, 0xAA)] })
      (fun t => (List.range 57).map (readOut t) == helloOut.map some
        && readOut t 57 == none && readOut t 60 == some 0xAA) = true := by decide +kernel

/-- Section 3.7: one byte short is BufferTooSmall, with OUT untouched. -/
theorem test_outWrite_short :
    nextWith (exec .outWrite { State.reset with cwValid := true, outCap := 56, gridState := .final })
      (fun t => readReg t 0 == 0xA7 && t.out == []) = true := by decide +kernel

/-- Program P5: ENCODE into a buffer one byte short undoes everything. -/
theorem test_encode_rolls_back :
    nextWith (exec .encode { State.reset with bb := bitsOf helloData, outCap := 56 })
      (fun t => readReg t 0 == 7 && readReg t 3 == 0x60000000 && t.cw == [] && t.grid == [] && t.out == []) = true := by
  decide +kernel

/-- Program P1's BitBuffer by ENCODE: the stages, the codewords and the first bytes of the header. -/
theorem test_encode :
    nextWith (exec .encode { State.reset with bb := bitsOf helloData, maskReq := .forced 0 })
      (fun t => readReg t 0 == 0xA0 && t.cw == helloData ++ helloEcc && readReg t 0x0B == 0
        && readOut t 0 == some 0x15) = true := by decide +kernel

/-! ### Tables and shared functions against the spec's own vectors -/

/-- The derived geometry of 42_config.md R134 for five versions: SIZE, RAW_MODULES, RAW_CW, remainder bits,
DATA_CW at each level, OUT_LEN. -/
theorem test_geometry :
    [1, 7, 14, 25, 40].map (fun v => [side v, rawModules v, rawCw v, remBits v, dataCw v .low, dataCw v .medium,
        dataCw v .quartile, dataCw v .high, outLen v])
      = [[21, 208, 26, 0, 19, 16, 13, 9, 57], [45, 1568, 196, 0, 156, 124, 88, 66, 255],
         [73, 4651, 581, 3, 461, 365, 261, 197, 668], [117, 12708, 1588, 4, 1276, 1000, 718, 538, 1713],
         [177, 29648, 3706, 0, 2956, 2334, 1666, 1276, 3918]] := by decide +kernel

/-- Products and a divisor of section 3.4. -/
theorem test_gf :
    [gmul 0x53 0xCA, gmul 0xFF 0xFF, gmul 0x80 0x80, gmul 0x57 0x83] = [0x8F, 0xE2, 0x13, 0x31]
    ∧ rsDivisor 7 = [0x7F, 0x7A, 0x9A, 0xA4, 0x0B, 0x44, 0x75]
    ∧ rsRemainder [0x01, 0x00] (rsDivisor 7) = [0x8B, 0xF5, 0x57, 0xC0, 0x1A, 0x22, 0xD0] := by decide +kernel

/-- Version and format words of sections 3.5 and 3.6. -/
theorem test_code_words :
    [7, 13, 21, 34, 40].map versionBits = [0x07C94, 0x0D847, 0x15683, 0x228BA, 0x28C69]
    ∧ [formatBits .low 0, formatBits .medium 2, formatBits .quartile 7, formatBits .high 7]
        = [0x77C4, 0x5E7C, 0x2BED, 0x083B] := by decide +kernel

/-- The zigzag of version 1 begins and ends as R191 says. -/
theorem test_zigzag :
    (zigzag 1).take 5 = [(20, 20), (19, 20), (20, 19), (19, 19), (20, 18)]
    ∧ (zigzag 1).drop 204 = [(1, 11), (0, 11), (1, 12), (0, 12)] := by decide +kernel

/-- Line penalties of section 3.6: PA and the rule (c) count. -/
theorem test_line_penalties :
    [ "101110100000000000000", "000010111010001111111", "000010111010000111111", "111110111100000000000" ].map
        (fun l => let d := l.toList.map fun c => c == '1'; (lineRunScore d, lineFinderCount 21 d))
      = [(12, 2), (5, 1), (4, 2), (12, 0)] := by decide +kernel

/-- Whole-grid penalties of section 3.6: all light, and even rows dark. -/
theorem test_grid_penalties :
    penaltyOf (fun _ _ => false) 21 = 2088 ∧ penaltyOf (fun _ y => y % 2 == 0) 21 = 399 := by decide +kernel

/-- Rule (d) of section 3.6. -/
theorem test_dark_ratio :
    [(220, 441), (198, 441), (242, 441), (243, 441), (0, 441), (250, 625)].map (fun p => darkRatioSteps p.1 p.2)
      = [0, 1, 0, 1, 9, 1] := by decide

/-- The lowest mask wins a tie and a strictly lower score replaces the best (45_mask_select.md R230). -/
theorem test_pickBest :
    (pickBest ⟨0, [], 5⟩ [⟨1, [], 5⟩, ⟨2, [], 4⟩, ⟨3, [], 4⟩, ⟨4, [], 6⟩]).mask = 2 := by decide

/-- Rows y = 1 of the mask patterns of section 3.6, x = 0 .. 5. -/
theorem test_masks :
    [0, 1, 2, 3, 4, 5, 6, 7].map (fun m : Fin 8 => (List.range 6).map fun x => (maskCond m x 1).toNat)
      = [[0, 1, 0, 1, 0, 1], [0, 0, 0, 0, 0, 0], [1, 0, 0, 1, 0, 0], [0, 0, 1, 0, 0, 1], [1, 1, 1, 0, 0, 0],
         [1, 0, 0, 0, 0, 0], [1, 1, 1, 0, 0, 0], [0, 0, 0, 1, 1, 1]] := by decide

/-- The read port right after reset (section 3.8). -/
theorem test_reset_reads :
    (List.range 26).map (readReg State.reset)
      = [0, 0xF001, 0, 0, 21, 19, 26, 1, 7, 57, 0, 0xF, 0xFFFFFFFF, 0, 0, 0, 0xFFFFFFFF, 0xFFFFFFFF, 0xFFFFFFFF,
         0xFFFFFFFF, 0xFFFFFFFF, 0xFFFFFFFF, 0xFFFFFFFF, 0xFFFFFFFF, 0, 0] := by decide +kernel

/-- The table words run as the first command after reset. -/
theorem test_fetch :
    nextWith (step (State.reset.withFetchWord 32 0x30000000)) (fun t => readReg t 0 == 6 && t.port == []) = true := by
  decide +kernel

/-! ### Witnesses: for every statement with premises, a state and operands that meet them together -/

/-- A state with one action waiting at the port. -/
def waiting (a : PortInput) : State := { State.reset with port := [a] }

/-- Version 1 LOW with a BitBuffer of exactly `8 · DATA_CW` bits and a buffer of exactly OUT_LEN bytes. -/
def filled : State := { State.reset with bb := List.replicate 152 false, outCap := 57, maskReq := .forced 0 }

theorem filled_length : filled.bb.length = 8 * dataCw filled.v filled.ecl := by decide +kernel

theorem witness_DecodeOfEncodeIsTheCommand :
    (Instr.bbAppend 16 0xFFFF).wellFormed = true ∧ (Instr.cfgSet 7 .high 63).wellFormed = true := by decide

theorem witness_EncodeOfDecodeIsTheWord : decode 0x1000F205 = .ok (.cfgSet 0xF .quartile 5) := by decide

theorem witness_RejectedWordsAreRejectedInOrder :
    (0xFF000000#32).toNat / 2 ^ 24 ∉ [0x01, 0x02, 0x10, 0x20, 0x30, 0x40, 0x50, 0x60]
    ∧ ((0x60000001#32).toNat / 2 ^ 24 ∈ [0x01, 0x20, 0x30, 0x40, 0x50, 0x60] ∧ (0x60000001#32).toNat % 2 ^ 24 ≠ 0)
    ∧ ((0x02200000#32).toNat / 2 ^ 24 = 0x02 ∧ (0x02200000#32).toNat / 2 ^ 21 % 2 ^ 3 ≠ 0)
    ∧ ((0x1000F040#32).toNat / 2 ^ 24 = 0x10 ∧ (0x1000F040#32).toNat / 2 ^ 6 % 2 ^ 2 ≠ 0)
    ∧ ((0x02110000#32).toNat / 2 ^ 24 = 0x02 ∧ (0x02110000#32).toNat / 2 ^ 21 % 2 ^ 3 = 0
        ∧ (0x02110000#32).toNat / 2 ^ 16 % 2 ^ 5 > 16)
    ∧ ((0x10008000#32).toNat / 2 ^ 24 = 0x10 ∧ (0x10008000#32).toNat / 2 ^ 16 % 2 ^ 8 = 0
        ∧ (0x10008000#32).toNat / 2 ^ 10 % 2 ^ 2 = 0 ∧ (0x10008000#32).toNat / 2 ^ 6 % 2 ^ 2 = 0
        ∧ 8 ≤ (0x10008000#32).toNat / 2 ^ 12 % 2 ^ 4 ∧ (0x10008000#32).toNat / 2 ^ 12 % 2 ^ 4 ≤ 14) := by decide

theorem witness_EveryWordExecutesOrIsIllegal : State.reset.fault = false := by decide

theorem witness_AssemblerGivesTheWords :
    (16 ≤ 16 ∧ 0xFFFF < 2 ^ 16) ∧ ¬(17 ≤ 16 ∧ 0 < 2 ^ 17)
    ∧ (63 < 64 ∧ 3 < 4 ∧ ∀ k, some 7 = some k → k ≤ 7)
    ∧ ¬(64 < 64 ∧ 3 < 4 ∧ ∀ k, some 7 = some k → k ≤ 7)
    ∧ ¬(63 < 64 ∧ 4 < 4 ∧ ∀ k, some 7 = some k → k ≤ 7)
    ∧ ¬(63 < 64 ∧ 3 < 4 ∧ ∀ k, some 8 = some k → k ≤ 7) := by
  refine ⟨by decide, by decide, ⟨by decide, by decide, fun k hk => ?_⟩, fun h => absurd h.1 (by decide),
    fun h => absurd h.2.1 (by decide), fun h => absurd (h.2.2 8 rfl) (by decide)⟩
  cases hk; decide

theorem witness_LongAppendIsTwoAppends :
    16 < 32 ∧ 32 ≤ 32 ∧ 0xFFFFFFFF < 2 ^ 32 ∧ State.reset.fault = false ∧ State.reset.bb.length + 32 ≤ 23648 := by
  decide

theorem witness_StepServesTheOldestAction :
    State.reset.port = [] ∧ (waiting .reset).port = .reset :: []
    ∧ ({ waiting (.command 0) with fault := true } : State).port = .command 0 :: []
    ∧ ((waiting (.command 0)).port = .command 0 :: [] ∧ (waiting (.command 0)).fault = false
        ∧ decode 0 = .error .unassignedOpcode)
    ∧ ((waiting (.command 0x60000000)).port = .command 0x60000000 :: []
        ∧ decode 0x60000000 = .ok .encode) := by decide

theorem witness_FetchedWordRunsNext :
    State.reset.fault = false ∧ decodeTableWord 32 0x02100001 = some (.bbAppend 16 1) := by decide

theorem witness_FaultIgnoresEveryWordUntilReset :
    (∃ s t : State, s.fault = true ∧ serve .reset s = .next t ∧ t.fault = false)
    ∧ ∃ s : State, s.fault = false ∧ s.version = 1 ∧ s.ecl = .low ∧ s.bb.length = 8 ∧ s.cwValid = false
        ∧ s.gridState = .empty :=
  ⟨⟨{ State.reset with fault := true }, State.reset, rfl, rfl, rfl⟩,
    ⟨{ State.reset with bb := List.replicate 8 true }, rfl, rfl, rfl, rfl, rfl, rfl⟩⟩

/-- GRID_BUILD right after reset is a command that fails. -/
theorem gridBuild_fails : ∃ t, exec .gridBuild State.reset = .next t ∧ t.err ≠ .ok :=
  ⟨raiseError .stageError 0x30000000 State.reset, rfl, by decide⟩

theorem witness_RaiseWritesErrAndErrCmd : ∃ (i : Instr) (s t : State), exec i s = .next t ∧ t.err ≠ .ok :=
  ⟨.gridBuild, State.reset, gridBuild_fails⟩

theorem witness_FailingCommandChangesNothingElse :
    (∃ (i : Instr) (s t : State), exec i s = .next t ∧ t.err ≠ .ok ∧ t.err ≠ .internalInconsistency)
    ∧ (∃ (i : Instr) (s t : State), exec i s = .next t ∧ t.err = .internalInconsistency) :=
  ⟨⟨.gridBuild, State.reset, raiseError .stageError 0x30000000 State.reset, rfl, by decide, by decide⟩,
    ⟨.rsEncode, State.reset, raiseError .internalInconsistency 0x20000000 State.reset, rfl, by decide⟩⟩

theorem witness_ErrCmdHoldsTheFailingWord :
    (∃ t, execWord 0x30000000 State.reset = .next t ∧ State.reset.fault = false ∧ t.err ≠ .ok)
    ∧ (∃ t, execWord 0x01000000 State.reset = .next t ∧ State.reset.fault = false ∧ t.err = .ok)
    ∧ (∃ s t : State, execWord 0x01000000 s = .next t ∧ s.fault = true) :=
  ⟨⟨raiseError .stageError 0x30000000 State.reset, rfl, rfl, by decide⟩,
    ⟨complete (invalidateCW State.reset), rfl, rfl, rfl⟩,
    ⟨{ State.reset with fault := true }, { State.reset with fault := true }, rfl, rfl⟩⟩

theorem witness_ErrorsAreReportedInOrder :
    (decode 0 = .error .unassignedOpcode ∧ decode 0x01000000 = .ok .bbClear)
    ∧ (maskFieldLegal 7 = true ∧ (0#6).toNat < 1 ∧ 40 < (41#6).toNat)
    ∧ (appendFieldsLegal 1 0 = true ∧ 23648 < 23648 + (1#5).toNat)
    ∧ State.reset.bb.length ≠ 8 * dataCw State.reset.v State.reset.ecl
    ∧ State.reset.cwValid = false ∧ State.reset.cw.length ≠ rawCw State.reset.v
    ∧ State.reset.gridState ≠ .placed ∧ State.reset.gridState ≠ .final
    ∧ 56 < outLen 1 ∧ 1 ≤ filled.v ∧ filled.v ≤ 40
    ∧ filled.bb.length = 8 * dataCw filled.v filled.ecl := by decide +kernel

theorem witness_BbClearEmptiesAndInvalidates : State.reset.fault = false := rfl

/-- An append that ends exactly at the capacity, and an empty append there. -/
theorem witness_BbAppendAppendsMostSignificantFirst :
    ∃ s : State, s.fault = false ∧ (16#5).toNat ≤ 16 ∧ (0xFFFF#16).toNat < 2 ^ (16#5).toNat
      ∧ s.bb.length + (16#5).toNat ≤ 23648 ∧ s.bb.length + (16#5).toNat = 23648 := by
  have h : ∀ n, ({ State.reset with bb := List.replicate n true } : State).bb.length = n := fun n =>
    List.length_replicate
  refine ⟨{ State.reset with bb := List.replicate 23632 true }, rfl, by decide, by decide, ?_, ?_⟩ <;>
    rw [h] <;> decide

theorem witness_BitBufferIsAppendOnly : ∃ t, exec .bbClear State.reset = .next t :=
  ⟨complete (invalidateCW State.reset), rfl⟩

theorem witness_BbByteIsMostSignificantFirst : 0 < 8 ∧ 7 < 8 ∧ 0 < 19 ∧ 2955 < 2956 ∧ 2956 ≤ 2956 := by decide

theorem witness_CfgSetWritesConfig :
    State.reset.fault = false ∧ maskFieldLegal 0xF = true ∧ maskFieldLegal 0 = true
    ∧ 1 ≤ (1#6).toNat ∧ (40#6).toNat ≤ 40 := by decide

theorem witness_DerivedRegistersFollowConfig :
    (∃ t, exec .bbClear State.reset = .next t) ∧ (∀ m e v, Instr.bbClear ≠ .cfgSet m e v) ∧ 4 ≤ 4 ∧ 9 ≤ 9 :=
  ⟨witness_BitBufferIsAppendOnly, fun _ _ _ h => Instr.noConfusion h, by decide, by decide⟩

/-- The versions of every statement about 1 .. 40, at both ends. -/
theorem witness_versions : (1 ≤ 1 ∧ 1 ≤ 40) ∧ (1 ≤ 40 ∧ 40 ≤ 40) := by decide

theorem witness_AlphaIsPrimitive : (0x80 : Byte) ≠ 0 ∧ 254 < 255 := by decide

theorem witness_RemainderIsLinear : ([0x01, 0x00] : List Byte).length = ([0x00, 0x01] : List Byte).length := rfl

theorem witness_BlockWithEccVanishesAtTheRoots : 1 ≤ 30 ∧ 30 ≤ 30 ∧ 29 < 30 := by decide

/-- Version 5 QUARTILE: block 2 is long, and its last byte is the one the index rule adjusts. -/
theorem witness_InterleavingPlacesEveryByte :
    ∃ b, (splitBlocks (blockLens 5 .quartile) (dataCodewords (dataCw 5 .quartile) []))[2]? = some b
      ∧ shortBlockDataLen 5 .quartile < b.length ∧ 17 < eccPerBlock 5 .quartile :=
  ⟨List.replicate 16 0, by decide +kernel, by decide +kernel, by decide +kernel⟩

theorem witness_RsEncodeWritesTheCodewords :
    filled.fault = false ∧ filled.bb.length = 8 * dataCw filled.v filled.ecl := ⟨rfl, filled_length⟩

theorem witness_ZigzagListsEveryDataModuleOnce : (0, 12) ∈ zigzag 1 ∧ (0, 0) ∉ zigzag 1 := by decide +kernel

theorem witness_EveryCodewordBitHasAModule : 1 ≤ 40 ∧ 40 ≤ 40 ∧ 207 < 8 * rawCw 1 := by decide

theorem witness_PlacedGridHoldsEveryBit :
    (0 < side 1 ∧ isFunc 1 0 0 = true) ∧ (zigzag 1)[207]? = some (0, 12) ∧ ¬(21 < side 1 ∧ 0 < side 1) := by
  decide +kernel

theorem witness_GridBuildPlacesTheCodewords :
    ∃ s : State, s.fault = false ∧ s.cwValid = true ∧ s.cw.length = rawCw s.v :=
  ⟨{ State.reset with cwValid := true, cw := List.replicate 26 0 }, rfl, rfl, by decide⟩

theorem witness_FunctionPatternColours :
    (3, 3) ∈ finderCentres 2 ∧ (7 < side 2 ∧ max (absDiff 7 3) (absDiff 7 3) ≤ 4) ∧ 8 ≤ 16 ∧ 16 ≤ side 2 - 9 ∧ (18, 18) ∈ alignCentres 2 ∧ (8, 17) ∈ formatArea 2 := by
  decide +kernel

theorem witness_VersionWordColoursItsModules : 7 ≤ 7 ∧ 7 ≤ 40 ∧ 17 < 18 ∧ 6 ≤ 6 := by decide

theorem witness_MaskInvertsDataModulesOnly :
    ∃ P : Grid, P.length = 2 ∧ (∀ row ∈ P, row.length = 2)
      ∧ P.get 0 0 = .set true false ∧ P.get 1 1 = .set false true :=
  ⟨[[.set true false, .unset], [.unset, .set false true]], rfl, by decide, rfl, rfl⟩

theorem witness_StampFormatWritesTheFormatArea : 14 < 15 ∧ (20, 20) ∉ formatArea 1 := by decide +kernel

theorem witness_SelectionKeepsTheLowestScore : (7 : Fin 8) ∈ maskCandidates .auto := by decide

/-- P1's PLACED grid. -/
theorem witness_MaskSelectStoresTheBest :
    ∃ s : State, s.fault = false ∧ s.gridState = .placed ∧ s.grid.get 19 20 = .set true false :=
  ⟨{ State.reset with gridState := .placed, grid := gridOf (picture placedPicture) }, rfl, rfl, by decide +kernel⟩

theorem witness_AutomaticMaskIsOptimal :
    (∃ s : State, s.fault = false ∧ s.gridState = .placed ∧ s.maskReq = .auto ∧ 1 ≤ s.v ∧ s.v ≤ 40)
    ∧ (∃ s : State, s.fault = false ∧ s.gridState = .placed ∧ s.maskReq = .forced 7 ∧ 1 ≤ s.v ∧ s.v ≤ 40) :=
  ⟨⟨{ State.reset with gridState := .placed }, rfl, rfl, rfl, by decide, by decide⟩,
    ⟨{ State.reset with gridState := .placed, maskReq := .forced 7 }, rfl, rfl, rfl, by decide, by decide⟩⟩

theorem witness_RunsAreMaximal :
    (true, 2) ∈ runs [true, true, false] ∧ (runs [true, true, false])[0]? = some (true, 2)
    ∧ (runs [true, true, false])[0 + 1]? = some (false, 1) := by decide

theorem witness_PaddedRunsBeginAndEndLight : (paddedRunList 3 [true, true])[1]? = some (true, 2) := by decide

theorem witness_DarkRatioCountsWholeSteps : 441 % 2 = 1 ∧ 0 ≤ 441 ∧ 441 ≤ 441 := by decide

theorem witness_OutputImageIsPackedRowMajor : 440 < side 1 ^ 2 ∧ 1 < 8 ∧ side 1 ^ 2 ≤ 8 * 55 + 1 := by decide

theorem witness_OutWriteWritesTheImage :
    ∃ s : State, s.fault = false ∧ s.gridState = .final ∧ outLen s.v ≤ s.outCap ∧ s.outCap = 57 :=
  ⟨{ State.reset with gridState := .final, outCap := 57 }, rfl, rfl, by decide, rfl⟩

theorem witness_EncodeRunsTheWholePipeline :
    filled.fault = false ∧ 1 ≤ filled.v ∧ filled.v ≤ 40 ∧ filled.bb.length = 8 * dataCw filled.v filled.ecl
    ∧ outLen filled.v ≤ filled.outCap := ⟨rfl, by decide, by decide, filled_length, by decide⟩

/-- ENCODE succeeds on `filled`. -/
theorem encode_filled : ∃ t, exec .encode filled = .next t ∧ t.err = .ok := by
  obtain ⟨t, ht, he⟩ := exists_of_nextWith
    (show nextWith (exec .encode filled) (fun t => decide (t.err = .ok)) = true by decide +kernel)
  exact ⟨t, ht, of_decide_eq_true he⟩

/-- The four stage commands succeed one after another on `filled`. -/
theorem stages_filled :
    nextWith (exec .rsEncode filled) (fun a => decide (a.err = .ok) && nextWith (exec .gridBuild a) (fun b =>
      decide (b.err = .ok) && nextWith (exec .maskSelect b) (fun c =>
        decide (c.err = .ok) && nextWith (exec .outWrite c) (fun t => decide (t.err = .ok))))) = true := by
  decide +kernel

theorem witness_EncodeEqualsTheFourCommands :
    (∃ s t : State, exec .encode s = .next t ∧ t.err = .ok)
    ∧ (∃ s a b c t : State, exec .rsEncode s = .next a ∧ a.err = .ok ∧ exec .gridBuild a = .next b ∧ b.err = .ok
        ∧ exec .maskSelect b = .next c ∧ c.err = .ok ∧ exec .outWrite c = .next t ∧ t.err = .ok) := by
  refine ⟨⟨filled, encode_filled⟩, ?_⟩
  obtain ⟨a, ha, h⟩ := exists_of_nextWith stages_filled
  obtain ⟨ea, h⟩ := Bool.and_eq_true_iff.mp h
  obtain ⟨b, hb, h⟩ := exists_of_nextWith h
  obtain ⟨eb, h⟩ := Bool.and_eq_true_iff.mp h
  obtain ⟨c, hc, h⟩ := exists_of_nextWith h
  obtain ⟨ec, h⟩ := Bool.and_eq_true_iff.mp h
  obtain ⟨t, ht, et⟩ := exists_of_nextWith h
  exact ⟨filled, a, b, c, t, ha, of_decide_eq_true ea, hb, of_decide_eq_true eb, hc, of_decide_eq_true ec, ht,
    of_decide_eq_true et⟩

theorem witness_EncodingAgainChangesNothing :
    ∃ s t : State, Memory.wf s.out ∧ exec .encode s = .next t ∧ t.err = .ok :=
  ⟨filled, encode_filled.choose, Memory.reset_wf, encode_filled.choose_spec⟩

theorem witness_OutIsWrittenNeverRead :
    ∃ (i : Instr) (s t : State), exec i s = .next t ∧ i ≠ .outWrite ∧ i ≠ .encode :=
  ⟨.bbClear, State.reset, complete (invalidateCW State.reset), rfl, by decide, by decide⟩

theorem witness_CommandsChangeOnlyTheirState :
    (∃ t, exec .bbClear State.reset = .next t)
    ∧ (∃ t, exec .rsEncode State.reset = .next t ∧ t.fault ≠ State.reset.fault)
    ∧ (∃ t, exec .outWrite State.reset = .next t) ∧ outLen State.reset.v ≤ 57 :=
  ⟨witness_BitBufferIsAppendOnly,
    ⟨raiseError .internalInconsistency 0x20000000 State.reset, rfl, by decide⟩,
    ⟨raiseError .stageError 0x50000000 State.reset, rfl⟩, by decide⟩

theorem witness_RegisterMapReadsTheState :
    State.reset.bb.length ≤ 23648 ∧ State.reset.cw.length ≤ 3706 ∧ (0x0D ≤ 0x0F ∧ 0x0F ≤ 0x0F) ∧ 0x18 ≤ 0x18 := by
  decide

theorem witness_ReadPortShowsCodewordsAndCells :
    ∃ s : State, 0 < s.cw.length ∧ s.cw.length ≤ 1 ∧ 20 < side s.v
      ∧ s.grid.get 0 0 = .set true true ∧ s.grid.get 20 20 = .unset ∧ side s.v ^ 2 ≤ 441 :=
  ⟨{ State.reset with cw := [1], grid := [[.set true true]] }, by decide, by decide, by decide, rfl, rfl, by decide⟩

/-- A coherent state with bits in the BitBuffer and a command waiting. -/
def busy : State :=
  { State.reset with bb := [true, false], out := [(3, 0xAA)], port := [.command 0x02080048, .reset] }

theorem busy_coherent : busy.Coherent where
  version_legal := by decide
  bb_fits := by decide
  cw_cleared := fun _ => rfl
  cw_current := fun h => nomatch h
  grid_needs_cw := fun h => absurd rfl h
  grid_cleared := fun _ => rfl
  grid_placed := fun h => nomatch h
  grid_final := fun h => nomatch h
  results_cleared := fun _ => ⟨rfl, rfl, rfl⟩
  err_produced := by decide
  fault_iff := by decide
  out_canonical := by decide
  out_in_buffer := by decide

theorem busy_steps : ∃ t, step busy = .next t := by
  obtain ⟨t, ht, -⟩ := exists_of_nextWith
    (show nextWith (step busy) (fun t => decide (t.err = .ok)) = true by decide +kernel)
  exact ⟨t, ht⟩

theorem witness_EveryStepKeepsTheStateCoherent : ∃ s t : State, s.Coherent ∧ step s = .next t :=
  ⟨busy, busy_steps.choose, busy_coherent, busy_steps.choose_spec⟩

theorem witness_CoherentStatesKeepTheStageRules : ∃ s : State, s.Coherent ∧ s.bb ≠ [] :=
  ⟨busy, busy_coherent, by decide⟩

theorem witness_ReachableStatesKeepTheStageRules : ∃ s t : State, PowerOn s ∧ Reaches s t ∧ s ≠ t := by
  let s : State := waiting (.command 0x02080048)
  obtain ⟨t, ht, he⟩ := exists_of_nextWith
    (show nextWith (step s) (fun t => decide (t.bb.length = 8)) = true by decide +kernel)
  refine ⟨s, t, ⟨rfl, Memory.reset_wf, fun c hc => nomatch hc⟩, .step .refl ht, fun h => ?_⟩
  have := of_decide_eq_true he
  rw [← h] at this
  exact absurd this (by decide)

end Sys2Proof.Tests
end

section
/-! What every command's execution has in common: `exec` is `finish` around the command's body, a completed body is
the update its rule states, and a stopped one raised a code that QR-CORE produces. -/

namespace Sys2Proof.Machine

/-- The body of each command (30_encoding.md R75). -/
def bodyOf : Instr → State → Body
  | .bbClear => bbClearBody
  | .bbAppend nbits value => bbAppendBody nbits value
  | .cfgSet mask ecl version => cfgSetBody mask ecl version
  | .rsEncode => rsEncodeBody
  | .gridBuild => gridBuildBody
  | .maskSelect => maskSelectBody
  | .outWrite => outWriteBody
  | .encode => encodeBody

theorem exec_eq_finish (i : Instr) (s : State) : exec i s = finish (encode i) s (bodyOf i s) := by
  cases i <;> rfl

/-- A command that answers a next state completed its body or raised an error with its own word (60_exceptions.md
R301 to R303). -/
theorem exec_next {i : Instr} {s t : State} (h : exec i s = .next t) :
    bodyOf i s = .ok t ∨ ∃ e, bodyOf i s = .error (.raised e) ∧ t = raiseError e (encode i) s :=
  finish_next (exec_eq_finish i s ▸ h)

/-! Bodies in sequence. -/

theorem bind_eq_ok {r : Body} {f : State → Body} {t : State} (h : r.bind f = .ok t) :
    ∃ a, r = .ok a ∧ f a = .ok t := by
  cases r with
  | ok a => exact ⟨a, rfl, h⟩
  | error x => cases h

theorem bind_eq_error {r : Body} {f : State → Body} {x : Stop} (h : r.bind f = .error x) :
    r = .error x ∨ ∃ a, r = .ok a ∧ f a = .error x := by
  cases r with
  | ok a => exact .inr ⟨a, rfl, h⟩
  | error y => exact .inl h

/-! What a completed body did. -/

theorem bbClearBody_ok {s t : State} (h : bbClearBody s = .ok t) :
    t = complete (invalidateCW { s with bb := [] }) := by
  cases h; rfl

theorem bbAppendBody_ok {n : BitVec 5} {x : BitVec 16} {s t : State} (h : bbAppendBody n x s = .ok t) :
    s.bb.length + n.toNat ≤ Config.bbCapBits
    ∧ t = complete (invalidateCW { s with bb := s.bb ++ bitsMsbFirst n.toNat x }) := by
  rcases bbAppendBody_cases n x s with ⟨-, he⟩ | ⟨-, -, -, he⟩ | ⟨-, -, hroom, he⟩ <;> rw [he] at h <;> cases h
  exact ⟨hroom, rfl⟩

theorem cfgSetBody_ok {mask : BitVec 4} {e : Ecl} {ver : BitVec 6} {s t : State}
    (h : cfgSetBody mask e ver s = .ok t) :
    (1 ≤ ver.toNat ∧ ver.toNat ≤ 40)
    ∧ ∃ req, t = complete (invalidateCW { s with version := ver, ecl := e, maskReq := req }) := by
  rcases cfgSetBody_cases mask e ver s with ⟨-, he⟩ | ⟨_, -, -, he⟩ | ⟨req, -, hlo, hhi, he⟩ <;> rw [he] at h <;> cases h
  exact ⟨⟨hlo, hhi⟩, req, rfl⟩

theorem rsEncodeBody_ok {s t : State} (h : rsEncodeBody s = .ok t) :
    s.bb.length = 8 * dataCw s.v s.ecl
    ∧ t = complete { invalidateGrid s with cw := finalCodewords s.v s.ecl s.bb, cwValid := true } := by
  rcases rsEncodeBody_cases s with ⟨-, he⟩ | ⟨hlen, he⟩ <;> rw [he] at h <;> cases h
  exact ⟨hlen, rfl⟩

theorem gridBuildBody_ok {s t : State} (h : gridBuildBody s = .ok t) :
    s.cwValid = true
    ∧ t = complete (clearMaskResults { s with grid := placedGrid s.v s.cw, gridState := .placed }) := by
  rcases gridBuildBody_cases s with ⟨-, he⟩ | ⟨-, -, he⟩ | ⟨hcw, -, he⟩ <;> rw [he] at h <;> cases h
  exact ⟨hcw, rfl⟩

theorem maskSelectBody_ok {s t : State} (h : maskSelectBody s = .ok t) :
    s.gridState = .placed
    ∧ t = complete { s with
        grid := (selectMask s.v s.ecl s.grid s.maskReq).grid
        gridState := .final
        selMask := BitVec.ofNat 4 (selectMask s.v s.ecl s.grid s.maskReq).mask.val
        penalty := BitVec.ofNat 32 (selectMask s.v s.ecl s.grid s.maskReq).score
        pens := pensOf s.v s.ecl s.grid s.maskReq } := by
  rcases maskSelectBody_cases s with ⟨-, he⟩ | ⟨hg, he⟩ <;> rw [he] at h <;> cases h
  exact ⟨hg, rfl⟩

theorem outWriteBody_ok {s t : State} (h : outWriteBody s = .ok t) :
    ∃ m, t = complete { s with out := m }
      ∧ (Memory.wf s.out → Memory.wf m)
      ∧ ((∀ c ∈ s.out, c.1 < s.outCap) → ∀ c ∈ m, c.1 < s.outCap)
      ∧ ∀ a, outLen s.v ≤ a → Memory.read m a = Memory.read s.out a := by
  rcases outWriteBody_cases s with ⟨-, he⟩ | ⟨-, -, he⟩ | ⟨-, -, m, he, hwf, hin, hread⟩ <;> rw [he] at h <;> cases h
  exact ⟨m, rfl, hwf, hin, fun a ha => by rw [hread a, if_neg (by omega)]⟩

/-- A completed ENCODE is its four stages, each completed (46_output.md R262). -/
theorem encodeBody_ok {s t : State} (h : encodeBody s = .ok t) :
    ∃ a b c, rsEncodeBody s = .ok a ∧ gridBuildBody a = .ok b ∧ maskSelectBody b = .ok c ∧ outWriteBody c = .ok t := by
  obtain ⟨c, hc, ht⟩ := bind_eq_ok h
  obtain ⟨b, hb, hc⟩ := bind_eq_ok hc
  obtain ⟨a, ha, hb⟩ := bind_eq_ok hb
  exact ⟨a, b, c, ha, hb, hc, ht⟩

/-- What every completed body leaves alone, and the OK it ends with (60_exceptions.md R302). -/
structure Completes (s t : State) : Prop where
  err : t.err = .ok
  fault : t.fault = s.fault
  errCmd : t.errCmd = s.errCmd
  outCap : t.outCap = s.outCap
  port : t.port = s.port

theorem Completes.trans {a b c : State} (h : Completes a b) (k : Completes b c) : Completes a c where
  err := k.err
  fault := k.fault.trans h.fault
  errCmd := k.errCmd.trans h.errCmd
  outCap := k.outCap.trans h.outCap
  port := k.port.trans h.port

/-- What the pipeline's stages leave alone besides: CONFIG and the BitBuffer (10_state.md R25, R29). -/
structure KeepsInputs (s t : State) : Prop where
  version : t.version = s.version
  ecl : t.ecl = s.ecl
  maskReq : t.maskReq = s.maskReq
  bb : t.bb = s.bb

theorem KeepsInputs.trans {a b c : State} (h : KeepsInputs a b) (k : KeepsInputs b c) : KeepsInputs a c where
  version := k.version.trans h.version
  ecl := k.ecl.trans h.ecl
  maskReq := k.maskReq.trans h.maskReq
  bb := k.bb.trans h.bb

theorem rsEncodeBody_frame {s t : State} (h : rsEncodeBody s = .ok t) :
    Completes s t ∧ KeepsInputs s t ∧ t.out = s.out := by
  obtain ⟨-, rfl⟩ := rsEncodeBody_ok h
  exact ⟨⟨rfl, rfl, rfl, rfl, rfl⟩, ⟨rfl, rfl, rfl, rfl⟩, rfl⟩

theorem gridBuildBody_frame {s t : State} (h : gridBuildBody s = .ok t) :
    Completes s t ∧ KeepsInputs s t ∧ t.out = s.out := by
  obtain ⟨-, rfl⟩ := gridBuildBody_ok h
  exact ⟨⟨rfl, rfl, rfl, rfl, rfl⟩, ⟨rfl, rfl, rfl, rfl⟩, rfl⟩

theorem maskSelectBody_frame {s t : State} (h : maskSelectBody s = .ok t) :
    Completes s t ∧ KeepsInputs s t ∧ t.out = s.out := by
  obtain ⟨-, rfl⟩ := maskSelectBody_ok h
  exact ⟨⟨rfl, rfl, rfl, rfl, rfl⟩, ⟨rfl, rfl, rfl, rfl⟩, rfl⟩

theorem outWriteBody_frame {s t : State} (h : outWriteBody s = .ok t) :
    Completes s t ∧ KeepsInputs s t ∧ ∀ a, outLen s.v ≤ a → readOut t a = readOut s a := by
  obtain ⟨m, rfl, -, -, hread⟩ := outWriteBody_ok h
  exact ⟨⟨rfl, rfl, rfl, rfl, rfl⟩, ⟨rfl, rfl, rfl, rfl⟩, hread⟩

theorem encodeBody_frame {s t : State} (h : encodeBody s = .ok t) :
    Completes s t ∧ KeepsInputs s t ∧ ∀ a, outLen s.v ≤ a → readOut t a = readOut s a := by
  obtain ⟨a, b, c, ha, hb, hc, ht⟩ := encodeBody_ok h
  obtain ⟨ca, ka, oa⟩ := rsEncodeBody_frame ha
  obtain ⟨cb, kb, ob⟩ := gridBuildBody_frame hb
  obtain ⟨cc, kc, oc⟩ := maskSelectBody_frame hc
  obtain ⟨ct, kt, ot⟩ := outWriteBody_frame ht
  have kabc := (ka.trans kb).trans kc
  refine ⟨((ca.trans cb).trans cc).trans ct, kabc.trans kt, fun k hk => ?_⟩
  rw [ot k (by rwa [State.v, kabc.version]), readOut, oc, ob, oa, readOut]

theorem bodyOf_completes {i : Instr} {s t : State} (h : bodyOf i s = .ok t) : Completes s t := by
  cases i with
  | bbClear => obtain rfl := bbClearBody_ok h; exact ⟨rfl, rfl, rfl, rfl, rfl⟩
  | bbAppend n x => obtain ⟨-, rfl⟩ := bbAppendBody_ok h; exact ⟨rfl, rfl, rfl, rfl, rfl⟩
  | cfgSet m e v => obtain ⟨-, req, rfl⟩ := cfgSetBody_ok h; exact ⟨rfl, rfl, rfl, rfl, rfl⟩
  | rsEncode => exact (rsEncodeBody_frame h).1
  | gridBuild => exact (gridBuildBody_frame h).1
  | maskSelect => exact (maskSelectBody_frame h).1
  | outWrite => exact (outWriteBody_frame h).1
  | encode => exact (encodeBody_frame h).1

/-! What a body can raise. -/

/-- A code QR-CORE raises: every code of R300 but OK and the two that the table says it never raises. -/
def ErrCode.Produced (e : ErrCode) : Prop := e ≠ .ok ∧ e ≠ .dataTooLong ∧ e ≠ .invalidSegment

/-- Every error that `f` raises is a code QR-CORE produces. -/
def RaisesProduced (f : State → Body) : Prop := ∀ s e, f s = .error (.raised e) → e.Produced

theorem RaisesProduced.bind {f g : State → Body} (hf : RaisesProduced f) (hg : RaisesProduced g) :
    RaisesProduced fun s => (f s).bind g := by
  intro s e h
  rcases bind_eq_error h with h | ⟨a, -, h⟩
  · exact hf s e h
  · exact hg a e h

theorem bbAppendBody_raises (n : BitVec 5) (x : BitVec 16) : RaisesProduced (bbAppendBody n x) := by
  intro s e h
  rcases bbAppendBody_cases n x s with ⟨-, he⟩ | ⟨-, -, -, he⟩ | ⟨-, -, -, he⟩ <;> rw [he] at h <;> cases h <;>
    simp [ErrCode.Produced]

theorem cfgSetBody_raises (mask : BitVec 4) (e : Ecl) (ver : BitVec 6) : RaisesProduced (cfgSetBody mask e ver) := by
  intro s e' h
  rcases cfgSetBody_cases mask e ver s with ⟨-, he⟩ | ⟨_, -, -, he⟩ | ⟨_, -, -, -, he⟩ <;> rw [he] at h <;> cases h <;>
    simp [ErrCode.Produced]

theorem rsEncodeBody_raises : RaisesProduced rsEncodeBody := by
  intro s e h
  rcases rsEncodeBody_cases s with ⟨-, he⟩ | ⟨-, he⟩ <;> rw [he] at h <;> cases h
  simp [ErrCode.Produced]

theorem gridBuildBody_raises : RaisesProduced gridBuildBody := by
  intro s e h
  rcases gridBuildBody_cases s with ⟨-, he⟩ | ⟨-, -, he⟩ | ⟨-, -, he⟩ <;> rw [he] at h <;> cases h <;>
    simp [ErrCode.Produced]

theorem maskSelectBody_raises : RaisesProduced maskSelectBody := by
  intro s e h
  rcases maskSelectBody_cases s with ⟨-, he⟩ | ⟨-, he⟩ <;> rw [he] at h <;> cases h
  simp [ErrCode.Produced]

theorem outWriteBody_raises : RaisesProduced outWriteBody := by
  intro s e h
  rcases outWriteBody_cases s with ⟨-, he⟩ | ⟨-, -, he⟩ | ⟨-, -, _, he, -⟩ <;> rw [he] at h <;> cases h <;>
    simp [ErrCode.Produced]

theorem bodyOf_raises (i : Instr) : RaisesProduced (bodyOf i) := by
  cases i with
  | bbClear => intro s e h; cases h
  | bbAppend n x => exact bbAppendBody_raises n x
  | cfgSet m e v => exact cfgSetBody_raises m e v
  | rsEncode => exact rsEncodeBody_raises
  | gridBuild => exact gridBuildBody_raises
  | maskSelect => exact maskSelectBody_raises
  | outWrite => exact outWriteBody_raises
  | encode =>
    exact ((rsEncodeBody_raises.bind gridBuildBody_raises).bind maskSelectBody_raises).bind outWriteBody_raises

end Sys2Proof.Machine
end

section
/-! Coherence (10_state.md R25 to R33): every command and every step keeps it. -/

namespace Sys2Proof.Machine

/-- Taking an action from the port touches nothing that coherence speaks of. -/
theorem State.Coherent.withPort {s : State} (hs : s.Coherent) (rest : List PortInput) :
    ({ s with port := rest } : State).Coherent := { hs with }

/-- Raising a produced error keeps coherence: only InternalInconsistency enters the fault state (60_exceptions.md
R303, R305). -/
theorem raiseError_coherent {s : State} (hs : s.Coherent) (hf : s.fault = false) {e : ErrCode} (he : e.Produced)
    (w : Word) : (raiseError e w s).Coherent :=
  { hs with
    err_produced := he.2
    fault_iff := by simp [hf] }

/-- Where CW and the grid are invalidated, only CONFIG, the BitBuffer and OUT need looking at (10_state.md R27). -/
theorem complete_invalidateCW_coherent {s : State} (hv : Config.vMin ≤ s.v ∧ s.v ≤ Config.vMax)
    (hbb : s.bb.length ≤ Config.bbCapBits) (hf : s.fault = false) (hwf : Memory.wf s.out)
    (hin : ∀ c ∈ s.out, c.1 < s.outCap) : (complete (invalidateCW s)).Coherent where
  version_legal := hv
  bb_fits := hbb
  cw_cleared := by simp
  cw_current := by simp
  grid_needs_cw := by simp
  grid_cleared := by simp
  grid_placed := by simp
  grid_final := by simp
  results_cleared := by simp
  err_produced := by simp
  fault_iff := by simp [hf]
  out_canonical := hwf
  out_in_buffer := hin

/-- Reset gives a coherent state around any canonical OUT within its size (70_reset_and_hazards.md R340, R341): CW and
the grid of a reset state are already invalidated. -/
theorem hostReset_coherent {s : State} (hwf : Memory.wf s.out) (hin : ∀ c ∈ s.out, c.1 < s.outCap) :
    (hostReset s).Coherent := by
  have hinv : complete (invalidateCW (hostReset s)) = hostReset s := rfl
  rw [← hinv]
  exact complete_invalidateCW_coherent (by simp [Config.vMin, Config.vMax]) (Nat.zero_le _) rfl hwf hin

section
variable {s t : State} (hs : s.Coherent) (hf : s.fault = false)
include hs hf

theorem bbClearBody_coherent (h : bbClearBody s = .ok t) : t.Coherent := by
  obtain rfl := bbClearBody_ok h
  exact complete_invalidateCW_coherent hs.version_legal (Nat.zero_le _) hf hs.out_canonical hs.out_in_buffer

theorem bbAppendBody_coherent {n : BitVec 5} {x : BitVec 16} (h : bbAppendBody n x s = .ok t) : t.Coherent := by
  obtain ⟨hroom, rfl⟩ := bbAppendBody_ok h
  exact complete_invalidateCW_coherent hs.version_legal (by simpa [bitsMsbFirst] using hroom) hf hs.out_canonical
    hs.out_in_buffer

theorem cfgSetBody_coherent {m : BitVec 4} {e : Ecl} {v : BitVec 6} (h : cfgSetBody m e v s = .ok t) :
    t.Coherent := by
  obtain ⟨hv, req, rfl⟩ := cfgSetBody_ok h
  exact complete_invalidateCW_coherent hv hs.bb_fits hf hs.out_canonical hs.out_in_buffer

theorem rsEncodeBody_coherent (h : rsEncodeBody s = .ok t) : t.Coherent := by
  obtain ⟨hlen, rfl⟩ := rsEncodeBody_ok h
  exact
    { version_legal := hs.version_legal
      bb_fits := hs.bb_fits
      cw_cleared := by simp
      cw_current := fun _ => ⟨hlen, rfl⟩
      grid_needs_cw := by simp
      grid_cleared := by simp
      grid_placed := by simp
      grid_final := by simp
      results_cleared := by simp
      err_produced := by simp
      fault_iff := by simp [hf]
      out_canonical := hs.out_canonical
      out_in_buffer := hs.out_in_buffer }

theorem gridBuildBody_coherent (h : gridBuildBody s = .ok t) : t.Coherent := by
  obtain ⟨hcw, rfl⟩ := gridBuildBody_ok h
  exact
    { hs with
      grid_needs_cw := fun _ => hcw
      grid_cleared := by simp
      grid_placed := fun _ => rfl
      grid_final := by simp
      results_cleared := by simp
      err_produced := by simp
      fault_iff := by simp [hf] }

theorem maskSelectBody_coherent (h : maskSelectBody s = .ok t) : t.Coherent := by
  obtain ⟨hg, rfl⟩ := maskSelectBody_ok h
  have hcw : s.cwValid = true := hs.grid_needs_cw (by simp [hg])
  rw [hs.grid_placed hg]
  exact
    { hs with
      grid_needs_cw := fun _ => hcw
      grid_cleared := by simp
      grid_placed := by simp
      grid_final := fun _ => ⟨rfl, rfl, rfl, rfl⟩
      results_cleared := by simp
      err_produced := by simp
      fault_iff := by simp [hf] }

theorem outWriteBody_coherent (h : outWriteBody s = .ok t) : t.Coherent := by
  obtain ⟨m, rfl, hwf, hin, -⟩ := outWriteBody_ok h
  exact
    { hs with
      err_produced := by simp
      fault_iff := by simp [hf]
      out_canonical := hwf hs.out_canonical
      out_in_buffer := hin hs.out_in_buffer }

theorem encodeBody_coherent (h : encodeBody s = .ok t) : t.Coherent := by
  obtain ⟨a, b, c, ha, hb, hc, ht⟩ := encodeBody_ok h
  have fa : a.fault = false := (rsEncodeBody_frame ha).1.fault.trans hf
  have fb : b.fault = false := (gridBuildBody_frame hb).1.fault.trans fa
  have fc : c.fault = false := (maskSelectBody_frame hc).1.fault.trans fb
  have ca := rsEncodeBody_coherent hs hf ha
  have cb := gridBuildBody_coherent ca fa hb
  have cc := maskSelectBody_coherent cb fb hc
  exact outWriteBody_coherent cc fc ht

/-- Outside the fault state every command keeps coherence, completed or failed. -/
theorem exec_coherent {i : Instr} (h : exec i s = .next t) : t.Coherent := by
  rcases exec_next h with h | ⟨e, he, rfl⟩
  · cases i with
    | bbClear => exact bbClearBody_coherent hs hf h
    | bbAppend n x => exact bbAppendBody_coherent hs hf h
    | cfgSet m e v => exact cfgSetBody_coherent hs hf h
    | rsEncode => exact rsEncodeBody_coherent hs hf h
    | gridBuild => exact gridBuildBody_coherent hs hf h
    | maskSelect => exact maskSelectBody_coherent hs hf h
    | outWrite => exact outWriteBody_coherent hs hf h
    | encode => exact encodeBody_coherent hs hf h
  · exact raiseError_coherent hs hf (bodyOf_raises i s e he) _

end

theorem step_coherent {s t : State} (hs : s.Coherent) (h : step s = .next t) : t.Coherent := by
  rcases step_cases h with ⟨-, rfl⟩ | ⟨rest, -, rfl⟩ | ⟨w, rest, -, -, rfl⟩ | ⟨w, rest, d, -, hf, -, rfl⟩ |
    ⟨w, rest, i, -, hf, -, he⟩
  · exact hs
  · exact hostReset_coherent hs.out_canonical hs.out_in_buffer
  · exact hs.withPort rest
  · exact raiseError_coherent (hs.withPort rest) hf (by simp [ErrCode.Produced]) w
  · exact exec_coherent (hs.withPort rest) hf he

/-- Settles O56: each of the step's five cases keeps coherence, and a command does so body by body. -/
theorem everyStepKeepsTheStateCoherent : Obligations.EveryStepKeepsTheStateCoherent := fun _ _ => step_coherent

end Sys2Proof.Machine
end

section
/-! The word of a decoded command, and ERR_CMD (10_state.md R28). -/

namespace Sys2Proof

/-- A word is the word of a command once its opcode and its operand bits are (30_encoding.md R70). -/
theorem encode_eq_of_parts {i : Instr} {w : Word} (hop : w.toNat / 2 ^ 24 = (opcodeOf i).toNat)
    (hbits : w.toNat % 2 ^ 24 = (operandBits i).toNat) : encode i = w := by
  apply BitVec.eq_of_toNat_eq
  rw [encode_toNat]
  omega

theorem decodeN_ok {w : Word} {i j : Instr} (h : decodeN w i = .ok j) : j = i ∧ w.toNat % 2 ^ 24 = 0 := by
  unfold decodeN at h
  split at h
  · next hz =>
    cases h
    have hlow : (w.extractLsb' 0 24).toNat = 0 := by rw [hz]; rfl
    rw [field_toNat] at hlow
    exact ⟨rfl, by omega⟩
  · cases h

theorem decodeA_ok {w : Word} {i : Instr} (h : decodeA w = .ok i) :
    i = .bbAppend (w.extractLsb' 16 5) (w.extractLsb' 0 16) ∧ w.toNat % 2 ^ 24 = (operandBits i).toNat := by
  unfold decodeA at h
  split at h
  · cases h
  · next hz =>
    have hres : (w.extractLsb' 21 3).toNat = 0 := by rw [not_not.mp hz]; rfl
    rw [field_toNat] at hres
    dsimp only at h
    split at h
    · cases h
    · cases h
      refine ⟨rfl, ?_⟩
      rw [operandBits_bbAppend, field_toNat, field_toNat]
      omega

theorem decodeC_ok {w : Word} {i : Instr} (h : decodeC w = .ok i) :
    i = .cfgSet (w.extractLsb' 12 4) (eclOfBits (w.extractLsb' 8 2)) (w.extractLsb' 0 6)
    ∧ w.toNat % 2 ^ 24 = (operandBits i).toNat := by
  unfold decodeC at h
  split at h
  · cases h
  · next hz =>
    simp only [not_or, not_not] at hz
    obtain ⟨hz16, hz10, hz6⟩ := hz
    have h16 : (w.extractLsb' 16 8).toNat = 0 := by rw [hz16]; rfl
    have h10 : (w.extractLsb' 10 2).toNat = 0 := by rw [hz10]; rfl
    have h6 : (w.extractLsb' 6 2).toNat = 0 := by rw [hz6]; rfl
    rw [field_toNat] at h16 h10 h6
    dsimp only at h
    split at h
    · cases h
    · cases h
      refine ⟨rfl, ?_⟩
      rw [operandBits_cfgSet, eclToBits_eclOfBits, field_toNat, field_toNat, field_toNat]
      omega

/-- Decoding drops no bit of a word (30_encoding.md R71 to R73). -/
theorem encode_of_decode {w : Word} {i : Instr} (h : decode w = .ok i) : encode i = w := by
  have hop := opcodeField_toNat w
  unfold decode at h
  split at h
  case h_2 ho =>
    obtain ⟨rfl, hbits⟩ := decodeA_ok h
    exact encode_eq_of_parts (hop ▸ ho) hbits
  case h_3 ho =>
    obtain ⟨rfl, hbits⟩ := decodeC_ok h
    exact encode_eq_of_parts (hop ▸ ho) hbits
  case h_9 => cases h
  all_goals
    next ho =>
      obtain ⟨rfl, hbits⟩ := decodeN_ok h
      exact encode_eq_of_parts (hop ▸ ho) hbits

end Sys2Proof

namespace Sys2Proof.Machine

theorem exec_errCmd {i : Instr} {s t : State} (h : exec i s = .next t) :
    (t.err ≠ .ok → t.errCmd = encode i) ∧ (t.err = .ok → t.errCmd = s.errCmd) := by
  rcases exec_next h with h | ⟨e, he, rfl⟩
  · have hc := bodyOf_completes h
    exact ⟨fun hne => absurd hc.err hne, fun _ => hc.errCmd⟩
  · exact ⟨fun _ => rfl, fun hok => absurd hok (bodyOf_raises i s e he).1⟩

/-- Settles O15: the word at the port is ignored, turned away with its own word in ERR_CMD, or is the word of the
command that it runs. -/
theorem errCmdHoldsTheFailingWord : Obligations.ErrCmdHoldsTheFailingWord := by
  intro w s t h
  unfold execWord at h
  split at h
  · next hf => cases h; simp [hf]
  · next hf =>
    split at h
    · cases h; simp [hf]
    · next i hi =>
      obtain ⟨hfail, hok⟩ := exec_errCmd h
      rw [encode_of_decode hi] at hfail
      exact ⟨fun _ => hfail, fun _ => hok, fun hf' => absurd hf' hf⟩

end Sys2Proof.Machine
end

section
/-! The frame of every command (10_state.md R23, R25, R29, R32, R33). -/

namespace Sys2Proof.Machine

theorem KeepsInputs.config {s t : State} (h : KeepsInputs s t) :
    t.version = s.version ∧ t.ecl = s.ecl ∧ t.maskReq = s.maskReq := ⟨h.version, h.ecl, h.maskReq⟩

section
variable {i : Instr} {s t : State} (h : bodyOf i s = .ok t)
include h

/-- Only CFG_SET writes CONFIG (R25). -/
theorem bodyOf_keeps_config (hi : ∀ m e v, i ≠ .cfgSet m e v) :
    t.version = s.version ∧ t.ecl = s.ecl ∧ t.maskReq = s.maskReq := by
  cases i with
  | bbClear => obtain rfl := bbClearBody_ok h; exact ⟨rfl, rfl, rfl⟩
  | bbAppend n x => obtain ⟨-, rfl⟩ := bbAppendBody_ok h; exact ⟨rfl, rfl, rfl⟩
  | cfgSet m e v => exact absurd rfl (hi m e v)
  | rsEncode => exact (rsEncodeBody_frame h).2.1.config
  | gridBuild => exact (gridBuildBody_frame h).2.1.config
  | maskSelect => exact (maskSelectBody_frame h).2.1.config
  | outWrite => exact (outWriteBody_frame h).2.1.config
  | encode => exact (encodeBody_frame h).2.1.config

/-- Only BB_CLEAR and BB_APPEND write the BitBuffer (R29). -/
theorem bodyOf_keeps_bb (hclear : i ≠ .bbClear) (happend : ∀ n x, i ≠ .bbAppend n x) : t.bb = s.bb := by
  cases i with
  | bbClear => exact absurd rfl hclear
  | bbAppend n x => exact absurd rfl (happend n x)
  | cfgSet m e v => obtain ⟨-, req, rfl⟩ := cfgSetBody_ok h; rfl
  | rsEncode => exact (rsEncodeBody_frame h).2.1.bb
  | gridBuild => exact (gridBuildBody_frame h).2.1.bb
  | maskSelect => exact (maskSelectBody_frame h).2.1.bb
  | outWrite => exact (outWriteBody_frame h).2.1.bb
  | encode => exact (encodeBody_frame h).2.1.bb

/-- The stages after RS_ENCODE leave the codewords alone. -/
theorem bodyOf_keeps_cw (hi : i = .gridBuild ∨ i = .maskSelect ∨ i = .outWrite) :
    t.cw = s.cw ∧ t.cwValid = s.cwValid := by
  rcases hi with rfl | rfl | rfl
  · obtain ⟨-, rfl⟩ := gridBuildBody_ok h; exact ⟨rfl, rfl⟩
  · obtain ⟨-, rfl⟩ := maskSelectBody_ok h; exact ⟨rfl, rfl⟩
  · obtain ⟨m, rfl, -⟩ := outWriteBody_ok h; exact ⟨rfl, rfl⟩

/-- OUT_WRITE leaves the grid and the mask results alone (R33). -/
theorem bodyOf_keeps_grid (hi : i = .outWrite) :
    t.grid = s.grid ∧ t.gridState = s.gridState ∧ t.selMask = s.selMask ∧ t.penalty = s.penalty
    ∧ t.pens = s.pens := by
  subst hi
  obtain ⟨m, rfl, -⟩ := outWriteBody_ok h
  exact ⟨rfl, rfl, rfl, rfl, rfl⟩

/-- Only OUT_WRITE and ENCODE write OUT (R32). -/
theorem bodyOf_keeps_out (hout : i ≠ .outWrite) (henc : i ≠ .encode) : t.out = s.out := by
  cases i with
  | bbClear => obtain rfl := bbClearBody_ok h; rfl
  | bbAppend n x => obtain ⟨-, rfl⟩ := bbAppendBody_ok h; rfl
  | cfgSet m e v => obtain ⟨-, req, rfl⟩ := cfgSetBody_ok h; rfl
  | rsEncode => exact (rsEncodeBody_frame h).2.2
  | gridBuild => exact (gridBuildBody_frame h).2.2
  | maskSelect => exact (maskSelectBody_frame h).2.2
  | outWrite => exact absurd rfl hout
  | encode => exact absurd rfl henc

/-- No command writes OUT at or beyond `OUT_LEN` (46_output.md R261). -/
theorem bodyOf_keeps_out_beyond {a : Nat} (ha : outLen s.v ≤ a) : readOut t a = readOut s a := by
  by_cases hout : i = .outWrite
  · subst hout; exact (outWriteBody_frame h).2.2 a ha
  by_cases henc : i = .encode
  · subst henc; exact (encodeBody_frame h).2.2 a ha
  rw [readOut, bodyOf_keeps_out h hout henc, readOut]

end

/-- Only OUT_WRITE and ENCODE change OUT, whether a command completes or fails (R32). -/
theorem exec_keeps_out {i : Instr} {s t : State} (h : exec i s = .next t) (hout : i ≠ .outWrite)
    (henc : i ≠ .encode) : t.out = s.out := by
  rcases exec_next h with h | ⟨e, -, rfl⟩
  · exact bodyOf_keeps_out h hout henc
  · rfl

/-- Raising an error changes FAULT only by setting it, for InternalInconsistency (60_exceptions.md R303). -/
theorem raiseError_fault_ne {e : ErrCode} {w : Word} {s : State} (h : (raiseError e w s).fault ≠ s.fault) :
    (raiseError e w s).fault = true ∧ e = .internalInconsistency := by
  by_cases he : e = .internalInconsistency
  · simp [he]
  · simp [he] at h

/-- Settles O52: a completed body keeps each piece it does not name, a raised error keeps all of them. -/
theorem commandsChangeOnlyTheirState : Obligations.CommandsChangeOnlyTheirState := by
  intro i s t h
  rcases exec_next h with h | ⟨e, -, rfl⟩
  · have hc := bodyOf_completes h
    exact ⟨hc.outCap, hc.port, bodyOf_keeps_config h, bodyOf_keeps_bb h, bodyOf_keeps_cw h, bodyOf_keeps_grid h,
      fun hf => absurd hc.fault hf,
      fun hout henc a => by rw [readOut, bodyOf_keeps_out h hout henc, readOut],
      fun a ha => bodyOf_keeps_out_beyond h ha⟩
  · exact ⟨rfl, rfl, fun _ => ⟨rfl, rfl, rfl⟩, fun _ _ => rfl, fun _ => ⟨rfl, rfl⟩,
      fun _ => ⟨rfl, rfl, rfl, rfl, rfl⟩, raiseError_fault_ne, fun _ _ _ => rfl, fun _ _ => rfl⟩

end Sys2Proof.Machine
end

section
/-! No command reads OUT (10_state.md R32). -/

namespace Sys2Proof.Machine

/-- With another content of OUT, `f` ends the same way, and completes in the same state but for OUT. -/
def OutBlind (f : State → Body) : Prop :=
  ∀ (s : State) (m : Memory), ∃ m', f { s with out := m } = (f s).map fun t => { t with out := m' }

theorem OutBlind.bind {f g : State → Body} (hf : OutBlind f) (hg : OutBlind g) :
    OutBlind fun s => (f s).bind g := by
  intro s m
  obtain ⟨mf, hmf⟩ := hf s m
  dsimp only
  rw [hmf]
  cases f s with
  | error x => exact ⟨mf, rfl⟩
  | ok a => exact hg a mf

theorem bbAppendBody_outBlind (n : BitVec 5) (x : BitVec 16) : OutBlind (bbAppendBody n x) := by
  refine fun s m => ⟨m, ?_⟩
  rcases bbAppendBody_cases n x s with ⟨hill, he⟩ | ⟨hn, hx, hfull, he⟩ | ⟨hn, hx, hroom, he⟩ <;> rw [he]
  · exact if_pos hill
  · exact (if_neg (by omega)).trans (if_pos hfull)
  · exact (if_neg (by omega)).trans (if_neg (Nat.not_lt.mpr hroom))

theorem cfgSetBody_outBlind (mask : BitVec 4) (e : Ecl) (ver : BitVec 6) : OutBlind (cfgSetBody mask e ver) := by
  refine fun s m => ⟨m, ?_⟩
  unfold cfgSetBody
  split
  · rfl
  · split <;> rfl

theorem rsEncodeBody_outBlind : OutBlind rsEncodeBody := by
  refine fun s m => ⟨m, ?_⟩
  rcases rsEncodeBody_cases s with ⟨hlen, he⟩ | ⟨hlen, he⟩ <;> rw [he]
  · exact if_pos hlen
  · exact if_neg (not_not.mpr hlen)

theorem gridBuildBody_outBlind : OutBlind gridBuildBody := by
  refine fun s m => ⟨m, ?_⟩
  rcases gridBuildBody_cases s with ⟨hcw, he⟩ | ⟨hcw, hlen, he⟩ | ⟨hcw, hlen, he⟩ <;> rw [he]
  · exact if_pos hcw
  · exact (if_neg (by simp [hcw])).trans (if_pos hlen)
  · exact (if_neg (by simp [hcw])).trans (if_neg (not_not.mpr hlen))

theorem maskSelectBody_outBlind : OutBlind maskSelectBody := by
  refine fun s m => ⟨m, ?_⟩
  rcases maskSelectBody_cases s with ⟨hg, he⟩ | ⟨hg, he⟩ <;> rw [he]
  · exact if_pos hg
  · exact if_neg (not_not.mpr hg)

/-- OUT_WRITE tests the grid state and OUT_CAP only, and then writes over whatever stands in OUT (46_output.md
R261). -/
theorem outWriteBody_outBlind : OutBlind outWriteBody := by
  intro s m
  rcases outWriteBody_cases s with ⟨hg, he⟩ | ⟨hg, hcap, he⟩ | ⟨hg, hcap, n, he, -⟩ <;> rw [he]
  · exact ⟨m, if_pos hg⟩
  · exact ⟨m, (if_neg (not_not.mpr hg)).trans (if_pos hcap)⟩
  · rcases outWriteBody_cases { s with out := m } with ⟨hg', -⟩ | ⟨-, hcap', -⟩ | ⟨-, -, n', he', -⟩
    · exact absurd hg hg'
    · exact absurd hcap (Nat.not_le.mpr hcap')
    · exact ⟨n', he'⟩

theorem bodyOf_outBlind (i : Instr) : OutBlind (bodyOf i) := by
  cases i with
  | bbClear => exact fun _ m => ⟨m, rfl⟩
  | bbAppend n x => exact bbAppendBody_outBlind n x
  | cfgSet m e v => exact cfgSetBody_outBlind m e v
  | rsEncode => exact rsEncodeBody_outBlind
  | gridBuild => exact gridBuildBody_outBlind
  | maskSelect => exact maskSelectBody_outBlind
  | outWrite => exact outWriteBody_outBlind
  | encode =>
    exact ((rsEncodeBody_outBlind.bind gridBuildBody_outBlind).bind maskSelectBody_outBlind).bind outWriteBody_outBlind

/-- With another content of OUT a command gives the same state but for OUT. -/
theorem exec_outBlind {i : Instr} {s t : State} (h : exec i s = .next t) (m : Memory) :
    ∃ m', exec i { s with out := m } = .next { t with out := m' } := by
  obtain ⟨m', hm'⟩ := bodyOf_outBlind i s m
  rw [exec_eq_finish, hm']
  rcases exec_next h with hb | ⟨e, hb, rfl⟩ <;> rw [hb]
  · exact ⟨m', rfl⟩
  · exact ⟨m, rfl⟩

/-- Settles O51: reset copies OUT, a command other than OUT_WRITE and ENCODE keeps it, and every body is blind to
it. -/
theorem outIsWrittenNeverRead : Obligations.OutIsWrittenNeverRead :=
  ⟨hostReset_out, fun _ => rfl, fun _ _ _ h hout henc => exec_keeps_out h hout henc, fun _ _ _ m h => exec_outBlind h m⟩

end Sys2Proof.Machine
end

section
/-! The register map (10_state.md R23 to R25, 20_memory.md R55). -/

namespace Sys2Proof.Machine

theorem statusWord_toNat (s : State) :
    (statusWord s).toNat
      = s.err.code.toNat + 16 * s.fault.toNat + 32 * s.cwValid.toNat + 64 * s.gridState.code.toNat := by
  rw [statusWord]
  erw [toNat_append, toNat_append, toNat_append, toNat_append]
  simp only [BitVec.toNat_ofNat, BitVec.toNat_ofBool]
  omega

theorem configWord_toNat (s : State) :
    (configWord s).toNat = s.version.toNat + 256 * (eclToBits s.ecl).toNat + 4096 * s.maskReq.field.toNat := by
  rw [configWord]
  erw [toNat_append, toNat_append, toNat_append, toNat_append, toNat_append]
  simp only [BitVec.toNat_ofNat]
  omega

theorem readReg_pens (s : State) (m : Fin 8) : readReg s (0x10 + m.val) = s.pens[m] := by
  match m with
  | 0 | 1 | 2 | 3 | 4 | 5 | 6 | 7 => rfl

theorem readReg_unmapped (s : State) {r : Nat} (h : (0x0D ≤ r ∧ r ≤ 0x0F) ∨ 0x18 ≤ r) : readReg s r = 0 := by
  rcases h with ⟨hlo, hhi⟩ | h
  · interval_cases r <;> rfl
  · obtain ⟨k, rfl⟩ := Nat.exists_eq_add_of_le' h
    rfl

/-- Settles O53, register by register. -/
theorem registerMapReadsTheState : Obligations.RegisterMapReadsTheState := by
  intro s
  refine ⟨statusWord_toNat s, configWord_toNat s, fun hbb => ?_, rfl, fun hcw => ?_, ?_, rfl, readReg_pens s,
    fun r => readReg_unmapped s⟩
  · exact Nat.mod_eq_of_lt (by omega)
  · exact Nat.mod_eq_of_lt (by omega)
  · exact BitVec.toNat_setWidth_of_le (by decide)

end Sys2Proof.Machine
end

section
/-! How many codewords RS_ENCODE leaves in CW (10_state.md R27, R31; 43_reed_solomon.md R154 to R156). -/

namespace Sys2Proof.Machine

/-! The division keeps the number of coefficients. -/

@[simp] theorem length_divisorRound (root : Byte) (D : List Byte) : (divisorRound root D).length = D.length := by
  induction D with
  | nil => rfl
  | cons a rest ih =>
    cases rest with
    | nil => rfl
    | cons b rest => rw [divisorRound, List.length_cons, ih, List.length_cons (a := a)]

@[simp] theorem length_divisorRounds (n : Nat) (root : Byte) (D : List Byte) :
    (divisorRounds n root D).length = D.length := by
  induction n generalizing root D with
  | zero => rfl
  | succ n ih => rw [divisorRounds, ih, length_divisorRound]

/-- The divisor of degree `d` has `d` coefficients below its leading 1 (R152). -/
theorem length_rsDivisor {d : Nat} (hd : 1 ≤ d) : (rsDivisor d).length = d := by
  rw [rsDivisor, length_divisorRounds, List.length_append, List.length_replicate, List.length_singleton]
  omega

theorem length_remainderRound {D R : List Byte} (h : R.length = D.length) (b : Byte) :
    (remainderRound D R b).length = D.length := by
  simp only [remainderRound, List.length_zipWith, List.length_append, List.length_tail, List.length_singleton]
  omega

/-- A block has as many ECC codewords as the divisor has coefficients (R153). -/
@[simp] theorem length_rsRemainder (B D : List Byte) : (rsRemainder B D).length = D.length :=
  List.foldlRecOn B (remainderRound D) (motive := fun R => R.length = D.length) List.length_replicate
    fun _ hR b _ => length_remainderRound hR b

/-! The round-robin takes every byte once. -/

theorem column_cons (b : List Byte) (bs : List (List Byte)) (j : Nat) :
    column (b :: bs) j = b[j]?.toList ++ column bs j := by
  rw [column, List.filterMap_cons]
  cases b[j]? <;> rfl

/-- A list gives one byte to each turn before its length and none to a later one. -/
theorem sum_length_getElem? (b : List Byte) (n : Nat) :
    ((List.range n).map fun j => b[j]?.toList.length).sum = min n b.length := by
  induction n with
  | zero => simp
  | succ n ih =>
    rw [List.sum_range_succ, ih]
    by_cases hn : n < b.length
    · rw [List.getElem?_eq_getElem hn, Option.toList_some, List.length_singleton]; omega
    · rw [List.getElem?_eq_none (by omega), Option.toList_none, List.length_nil]; omega

/-- Turns enough for the longest list take every byte of every list (R155). -/
theorem length_flatMap_column {blocks : List (List Byte)} {n : Nat} (h : ∀ b ∈ blocks, b.length ≤ n) :
    ((List.range n).flatMap (column blocks)).length = (blocks.map List.length).sum := by
  induction blocks with
  | nil => simp [column]
  | cons b bs ih =>
    obtain ⟨hb, hbs⟩ := List.forall_mem_cons.mp h
    have ih := ih hbs
    rw [List.length_flatMap] at ih ⊢
    simp only [column_cons, List.length_append, List.sum_map_add, sum_length_getElem?, ih, List.map_cons,
      List.sum_cons]
    omega

theorem length_interleave {shortLen eccLen : Nat} {blocks eccs : List (List Byte)}
    (hblocks : ∀ b ∈ blocks, b.length ≤ shortLen + 1) (heccs : ∀ b ∈ eccs, b.length = eccLen) :
    (interleave shortLen eccLen blocks eccs).length = (blocks.map List.length).sum + eccs.length * eccLen := by
  have hecc : (eccs.map List.length).sum = eccs.length * eccLen := by
    rw [List.map_congr_left heccs]; simp
  rw [interleave, List.length_append, length_flatMap_column hblocks,
    length_flatMap_column fun b hb => (heccs b hb).le, hecc]

/-- The blocks have the lengths asked for, where the data suffices (R154). -/
theorem map_length_splitBlocks {ns : List Nat} {d : List Byte} (h : ns.sum ≤ d.length) :
    (splitBlocks ns d).map List.length = ns := by
  induction ns generalizing d with
  | nil => rfl
  | cons n ns ih =>
    rw [List.sum_cons] at h
    rw [splitBlocks, List.map_cons, List.length_take, ih (by rw [List.length_drop]; omega), min_eq_left (by omega)]

/-- Every block is a short or a long one (42_config.md R130). -/
theorem le_of_mem_blockLens {v : Nat} {e : Ecl} {n : Nat} (h : n ∈ blockLens v e) : n ≤ shortBlockDataLen v e + 1 := by
  obtain ⟨i, -, rfl⟩ := List.mem_map.mp h
  unfold blockDataLen
  split <;> omega

/-! The tables at the legal versions (42_config.md R128 to R133). -/

section
variable {v : Nat} (hlo : Config.vMin ≤ v) (hhi : v ≤ Config.vMax)
include hlo hhi

/-- A fact about every legal version and level, from its finite table. -/
theorem of_versions {P : Nat → Ecl → Prop}
    (h : ∀ k : Fin 40, P (k + 1) .low ∧ P (k + 1) .medium ∧ P (k + 1) .quartile ∧ P (k + 1) .high) (e : Ecl) :
    P v e := by
  obtain ⟨k, rfl⟩ := Nat.exists_eq_add_of_le' hlo
  have hk : k < 40 := Nat.lt_of_succ_le hhi
  obtain ⟨hL, hM, hQ, hH⟩ := h ⟨k, hk⟩
  cases e
  · exact hL
  · exact hM
  · exact hQ
  · exact hH

theorem sum_blockLens (e : Ecl) : (blockLens v e).sum = dataCw v e :=
  of_versions hlo hhi (P := fun v e => (blockLens v e).sum = dataCw v e) (by decide +kernel) e

theorem dataCw_add_ecc (e : Ecl) : dataCw v e + numBlocks v e * eccPerBlock v e = rawCw v :=
  of_versions hlo hhi (P := fun v e => dataCw v e + numBlocks v e * eccPerBlock v e = rawCw v) (by decide +kernel) e

theorem one_le_eccPerBlock (e : Ecl) : 1 ≤ eccPerBlock v e :=
  of_versions hlo hhi (P := fun v e => 1 ≤ eccPerBlock v e) (by decide +kernel) e

theorem rawCw_le_cwCap : rawCw v ≤ Config.cwCap :=
  of_versions hlo hhi (P := fun v _ => rawCw v ≤ Config.cwCap) (by decide +kernel) .low

/-- The final sequence has the version's number of codewords (R128, 43_reed_solomon.md R156). -/
theorem length_finalCodewords (e : Ecl) (bb : List Bool) : (finalCodewords v e bb).length = rawCw v := by
  have hlens : (splitBlocks (blockLens v e) (dataCodewords (dataCw v e) bb)).map List.length = blockLens v e :=
    map_length_splitBlocks (by rw [sum_blockLens hlo hhi, dataCodewords, List.length_map, List.length_range])
  have hcount : (splitBlocks (blockLens v e) (dataCodewords (dataCw v e) bb)).length = numBlocks v e := by
    rw [← List.length_map, hlens, blockLens, List.length_map, List.length_range]
  rw [finalCodewords, length_interleave, hlens, sum_blockLens hlo hhi, List.length_map, hcount,
    dataCw_add_ecc hlo hhi]
  · exact fun b hb => le_of_mem_blockLens (hlens ▸ List.mem_map_of_mem hb)
  · intro r hr
    obtain ⟨b, -, rfl⟩ := List.mem_map.mp hr
    rw [length_rsRemainder, length_rsDivisor (one_le_eccPerBlock hlo hhi e)]

end

end Sys2Proof.Machine
end

section
/-! The shape of the grid (10_state.md R30): GRID_BUILD draws it, and placement, masks and format information recolour
cells only. -/

namespace Sys2Proof.Machine

/-- A tabulated grid is drawn when its function sets every used cell with the right function bit. -/
theorem Grid.tabulate_drawn {v : Nat} {f : Nat → Nat → Cell}
    (h : ∀ x < side v, ∀ y < side v, ∃ dark, f x y = .set dark (isFunc v x y)) :
    (Grid.tabulate (side v) f).Drawn v where
  rows := Grid.length_tabulate _ _
  columns := Grid.columns_tabulate _ _
  cells x hx y hy := by rw [Grid.get_tabulate, if_pos ⟨hx, hy⟩]; exact h x hx y hy

theorem Grid.Drawn.setDark {v : Nat} {g : Grid} (h : g.Drawn v) (x y : Nat) (b : Bool) : (g.setDark x y b).Drawn v where
  rows := by rw [Grid.length_setDark, h.rows]
  columns := Grid.columns_setDark h.columns x y b
  cells x' hx' y' hy' := by
    obtain ⟨dark, hd⟩ := h.cells x' hx' y' hy'
    rw [Grid.get_setDark, hd]
    split
    · exact ⟨b, rfl⟩
    · exact ⟨dark, rfl⟩

theorem baseGrid_drawn (v : Nat) : (baseGrid v).Drawn v := by
  refine Grid.tabulate_drawn fun x _ y _ => ?_
  cases isFunc v x y
  · exact ⟨false, rfl⟩
  · exact ⟨fcolour v x y, rfl⟩

theorem Grid.Drawn.placeBit {v : Nat} {g : Grid} (h : g.Drawn v) (cw : List Byte) (pk : (Nat × Nat) × Nat) :
    (placeBit cw g pk).Drawn v := by
  unfold Machine.placeBit
  split
  · exact h.setDark _ _ _
  · exact h

/-- The PLACED grid is drawn (44_grid_layout.md R195). -/
theorem placedGrid_drawn (v : Nat) (cw : List Byte) : (placedGrid v cw).Drawn v :=
  List.foldlRecOn _ (placeBit cw) (motive := fun g => Grid.Drawn v g) (baseGrid_drawn v)
    fun _ hg pk _ => hg.placeBit cw pk

theorem Grid.Drawn.maskGrid {v : Nat} {g : Grid} (h : g.Drawn v) (m : Fin 8) : (maskGrid (side v) g m).Drawn v := by
  refine Grid.tabulate_drawn fun x hx y hy => ?_
  obtain ⟨dark, hd⟩ := h.cells x hx y hy
  rw [hd]
  exact ⟨_, rfl⟩

theorem Grid.Drawn.stampFormat {v : Nat} {g : Grid} (h : g.Drawn v) (e : Ecl) (m : Fin 8) :
    (stampFormat v g e m).Drawn v := by
  refine Grid.Drawn.setDark ?_ _ _ _
  exact List.foldlRecOn _ _ (motive := fun g => Grid.Drawn v g) h fun _ hg _ _ => (hg.setDark _ _ _).setDark _ _ _

theorem candidate_grid (v : Nat) (e : Ecl) (P : Grid) (m : Fin 8) :
    (candidate v e P m).grid = candidateGrid v e P m := by rw [candidate]

theorem Grid.Drawn.candidate {v : Nat} {g : Grid} (h : g.Drawn v) (e : Ecl) (m : Fin 8) :
    (candidate v e g m).grid.Drawn v := by
  rw [candidate_grid, candidateGrid]
  exact (h.maskGrid m).stampFormat e m

/-- The selection keeps one of the candidates it is given (45_mask_select.md R230). -/
theorem pickBest_mem (best : Candidate) (cs : List Candidate) : pickBest best cs ∈ best :: cs := by
  induction cs generalizing best with
  | nil => exact List.mem_singleton.mpr rfl
  | cons c rest ih =>
    have hmem := ih (if c.score < best.score then c else best)
    rw [pickBest]
    split at hmem
    · next hlt => rw [if_pos hlt]; exact List.mem_cons_of_mem _ hmem
    · next hge =>
      rw [if_neg hge]
      rcases List.mem_cons.mp hmem with h | h
      · rw [h]; exact List.mem_cons_self
      · exact List.mem_cons_of_mem _ (List.mem_cons_of_mem _ h)

/-- The selected candidate is the candidate of one of the masks of R231. -/
theorem selectMask_eq_candidate (v : Nat) (e : Ecl) (P : Grid) (req : MaskReq) :
    ∃ m ∈ maskCandidates req, selectMask v e P req = candidate v e P m := by
  have hmem : selectMask v e P req ∈ (maskCandidates req).map (candidate v e P) := pickBest_mem _ _
  obtain ⟨m, hm, h⟩ := List.mem_map.mp hmem
  exact ⟨m, hm, h.symm⟩

theorem Grid.Drawn.selectMask {v : Nat} {g : Grid} (h : g.Drawn v) (e : Ecl) (req : MaskReq) :
    (selectMask v e g req).grid.Drawn v := by
  obtain ⟨m, -, hm⟩ := selectMask_eq_candidate v e g req
  rw [hm]
  exact h.candidate e m

/-- A drawn grid lists no cell outside its used square. -/
theorem Grid.Drawn.lt_side {v : Nat} {g : Grid} (h : g.Drawn v) {x y : Nat} (hxy : g.get x y ≠ .unset) :
    x < side v ∧ y < side v := by
  rw [← h.rows]
  by_cases hy : y < g.length
  · refine ⟨?_, hy⟩
    by_contra hx
    have hrow := (h.columns g[y] (List.getElem_mem hy)).trans h.rows.symm
    rw [Grid.get_eq, List.getD_eq_getElem _ _ hy, List.getD_eq_default _ _ (by omega)] at hxy
    exact hxy rfl
  · rw [Grid.get_eq, List.getD_eq_default _ _ (not_lt.mp hy)] at hxy
    exact absurd rfl hxy

end Sys2Proof.Machine
end

section
/-! The stage invariants (10_state.md R27) and the grid's shape (R30) in coherent and in reached states. -/

namespace Sys2Proof.Machine

section
variable {s : State} (hs : s.Coherent)
include hs

theorem State.Coherent.length_cw (h : s.cwValid = true) : s.cw.length = rawCw s.v := by
  rw [(hs.cw_current h).2]
  exact length_finalCodewords hs.version_legal.1 hs.version_legal.2 s.ecl s.bb

theorem State.Coherent.length_cw_le : s.cw.length ≤ Config.cwCap := by
  cases h : s.cwValid with
  | false => rw [hs.cw_cleared h]; exact Nat.zero_le _
  | true => rw [hs.length_cw h]; exact rawCw_le_cwCap hs.version_legal.1 hs.version_legal.2

theorem State.Coherent.grid_drawn (h : s.gridState ≠ .empty) : s.grid.Drawn s.v := by
  have hplaced := placedGrid_drawn s.v s.cw
  cases hg : s.gridState with
  | empty => exact absurd hg h
  | placed => rw [hs.grid_placed hg]; exact hplaced
  | final => rw [(hs.grid_final hg).1]; exact hplaced.selectMask s.ecl s.maskReq

theorem State.Coherent.get_unset_of_empty (h : s.gridState = .empty) (x y : Nat) : s.grid.get x y = .unset := by
  rw [hs.grid_cleared h, Grid.get_nil]

theorem State.Coherent.cell_in_array {x y : Nat} (h : s.grid.get x y ≠ .unset) :
    x < Config.sizeMax ∧ y < Config.sizeMax := by
  have hdrawn := hs.grid_drawn fun hempty => h (hs.get_unset_of_empty hempty x y)
  obtain ⟨hx, hy⟩ := hdrawn.lt_side h
  have hside := side_le_sizeMax hs.version_legal.2
  exact ⟨by omega, by omega⟩

/-- The four invariants of R27. -/
theorem State.Coherent.stage_rules :
    (s.gridState ≠ .empty → s.cwValid = true)
    ∧ (s.cwValid = true → s.cw.length = rawCw s.v)
    ∧ (s.cwValid = false → s.cw.length = 0)
    ∧ (s.gridState ≠ .final → s.selMask = 0xF) :=
  ⟨hs.grid_needs_cw, hs.length_cw, fun h => by rw [hs.cw_cleared h, List.length_nil],
    fun h => (hs.results_cleared h).1⟩

end

/-- Settles O57: coherence says what CW and the grid hold, and those have the length and the shape. -/
theorem coherentStatesKeepTheStageRules : Obligations.CoherentStatesKeepTheStageRules := by
  intro s hs
  obtain ⟨hneeds, hlen, hempty, hsel⟩ := hs.stage_rules
  exact ⟨hneeds, hlen, hempty, hsel, hs.length_cw_le, hs.get_unset_of_empty, hs.grid_drawn,
    side_le_sizeMax hs.version_legal.2, fun _ _ => hs.cell_in_array⟩

theorem PowerOn.coherent {s : State} (h : PowerOn s) : s.Coherent := by
  obtain ⟨hreset, hwf, hin⟩ := h
  rw [hreset]
  exact hostReset_coherent hwf hin

theorem Reaches.coherent {s t : State} (h : Reaches s t) (hs : s.Coherent) : t.Coherent := by
  induction h with
  | refl => exact hs
  | step _ hu ih => exact step_coherent ih hu

/-- Settles O58: power-on is coherent, every step keeps coherence, and coherence implies R27. -/
theorem reachableStatesKeepTheStageRules : Obligations.ReachableStatesKeepTheStageRules := by
  intro s t hs ht
  have hc := ht.coherent hs.coherent
  exact ⟨hc, hc.stage_rules⟩

end Sys2Proof.Machine
end

section
/-! The read port's CW and GRID spaces (20_memory.md R52, R54). -/

namespace Sys2Proof.Machine

/-- A codeword is read as it stands in CW (R52). -/
theorem some_readCW {s : State} {i : Nat} (h : i < s.cw.length) : some (readCW s i) = s.cw[i]? := by
  rw [readCW, List.getD_eq_getElem _ _ h, List.getElem?_eq_getElem h]

/-- From CW_LEN on, CW space reads 0 (R52). -/
theorem readCW_of_length_le {s : State} {i : Nat} (h : s.cw.length ≤ i) : readCW s i = 0 :=
  List.getD_eq_default _ _ h

@[simp] theorem Cell.byte_unset : Cell.unset.byte = 0 := rfl

/-- The bits of a SET cell's byte, read as a number (R54). -/
theorem Cell.toNat_byte_set (dark func : Bool) :
    (Cell.set dark func).byte.toNat = 4 + 2 * func.toNat + dark.toNat := by
  cases dark <;> cases func <;> rfl

/-- The row-major index of a cell of a square lies below the number of its cells. -/
theorem rowMajor_lt_sq {n x y : Nat} (hx : x < n) (hy : y < n) : y * n + x < n ^ 2 := by
  calc y * n + x < (y + 1) * n := by rw [Nat.succ_mul]; omega
    _ ≤ n * n := Nat.mul_le_mul_right n hy
    _ = n ^ 2 := (Nat.pow_two n).symm

theorem rowMajor_div {n x : Nat} (hx : x < n) (y : Nat) : (y * n + x) / n = y := by
  rw [Nat.mul_comm, Nat.mul_add_div (by omega), Nat.div_eq_of_lt hx, Nat.add_zero]

/-- The GRID index `y * S + x` reads the cell at column `x`, row `y` (R54). -/
theorem readGrid_rowMajor {s : State} {x y : Nat} (hx : x < side s.v) (hy : y < side s.v) :
    readGrid s (y * side s.v + x) = (s.grid.get x y).byte := by
  rw [readGrid, if_pos (rowMajor_lt_sq hx hy), Nat.mul_add_mod_of_lt hx, rowMajor_div hx]

/-- From `S ^ 2` on, GRID space reads 0 (R54). -/
theorem readGrid_of_sq_le {s : State} {k : Nat} (h : side s.v ^ 2 ≤ k) : readGrid s k = 0 :=
  if_neg (Nat.not_lt.mpr h)

/-- Settles O54: CW space is the list with default 0, and row-major indices split back into column and row. -/
theorem readPortShowsCodewordsAndCells : Obligations.ReadPortShowsCodewordsAndCells := by
  refine fun s => ⟨fun _ => some_readCW, fun _ => readCW_of_length_le, fun x y hx hy => ?_,
    fun _ => readGrid_of_sq_le⟩
  rw [readGrid_rowMajor hx hy]
  constructor
  · intro hunset
    rw [hunset, Cell.byte_unset]
  · intro dark func hset
    rw [hset, Cell.toNat_byte_set]

end Sys2Proof.Machine
end

section
/-! Decoding in numbers (30_encoding.md R70 to R76): the opcode selects the format's decoder, and each format's
decoder tests the fields of the word as a number. -/

namespace Sys2Proof

/-- The decoder of a command's format: N, A or C (R71 to R73, R75). -/
def formatDecoder : Instr → Word → Except DecodeError Instr
  | .bbAppend _ _ => decodeA
  | .cfgSet _ _ _ => decodeC
  | i => fun w => decodeN w i

/-- The commands of format N (R71). -/
def plainCommands : List Instr := [.bbClear, .rsEncode, .gridBuild, .maskSelect, .outWrite, .encode]

theorem formatDecoder_of_plain {i : Instr} (h : i ∈ plainCommands) : formatDecoder i = fun w => decodeN w i := by
  revert i; simp [plainCommands, formatDecoder]

theorem operandBits_of_plain {i : Instr} (h : i ∈ plainCommands) : operandBits i = 0 := by
  revert i; decide

/-- A word with the opcode of a command is decoded by that command's format (R70). -/
theorem decode_of_opcode {w : Word} {i : Instr} (h : w.toNat / 2 ^ 24 = (opcodeOf i).toNat) :
    decode w = formatDecoder i w := by
  unfold decode
  rw [opcodeField_toNat, h]
  cases i <;> rfl

/-- A word is turned away by its opcode, or its opcode is a command's (R76 step 1). -/
theorem decode_cases (w : Word) :
    decode w = .error .unassignedOpcode ∨ ∃ i, w.toNat / 2 ^ 24 = (opcodeOf i).toNat := by
  rw [← opcodeField_toNat]
  unfold decode
  split
  case h_1 ho => exact .inr ⟨.bbClear, ho⟩
  case h_2 ho => exact .inr ⟨.bbAppend 0 0, ho⟩
  case h_3 ho => exact .inr ⟨.cfgSet 0 .low 0, ho⟩
  case h_4 ho => exact .inr ⟨.rsEncode, ho⟩
  case h_5 ho => exact .inr ⟨.gridBuild, ho⟩
  case h_6 ho => exact .inr ⟨.maskSelect, ho⟩
  case h_7 ho => exact .inr ⟨.outWrite, ho⟩
  case h_8 ho => exact .inr ⟨.encode, ho⟩
  case h_9 => exact .inl rfl

theorem opcodeOf_mem (i : Instr) : (opcodeOf i).toNat ∈ [0x01, 0x02, 0x10, 0x20, 0x30, 0x40, 0x50, 0x60] := by
  cases i <;> simp [opcodeOf]

theorem field_eq_zero (w : Word) (lo len : Nat) : w.extractLsb' lo len = 0 ↔ w.toNat / 2 ^ lo % 2 ^ len = 0 := by
  rw [← BitVec.toNat_inj, field_toNat, BitVec.ofNat_eq_ofNat, BitVec.toNat_ofNat, Nat.zero_mod]

theorem decodeN_eq (w : Word) (i : Instr) :
    decodeN w i = if w.toNat % 2 ^ 24 = 0 then .ok i else .error .reservedField := by
  simp only [decodeN, field_eq_zero, Nat.pow_zero, Nat.div_one]

theorem decodeA_eq (w : Word) :
    decodeA w =
      if w.toNat / 2 ^ 21 % 2 ^ 3 ≠ 0 then .error .reservedField
      else if w.toNat / 2 ^ 16 % 2 ^ 5 > 16 ∨ w.toNat % 2 ^ 16 ≥ 2 ^ (w.toNat / 2 ^ 16 % 2 ^ 5) then
        .error .illegalOperand
      else .ok (.bbAppend (w.extractLsb' 16 5) (w.extractLsb' 0 16)) := by
  simp only [decodeA, ne_eq, field_eq_zero, field_toNat, Nat.pow_zero, Nat.div_one]

theorem decodeC_eq (w : Word) :
    decodeC w =
      if w.toNat / 2 ^ 16 % 2 ^ 8 ≠ 0 ∨ w.toNat / 2 ^ 10 % 2 ^ 2 ≠ 0 ∨ w.toNat / 2 ^ 6 % 2 ^ 2 ≠ 0 then
        .error .reservedField
      else if 8 ≤ w.toNat / 2 ^ 12 % 2 ^ 4 ∧ w.toNat / 2 ^ 12 % 2 ^ 4 ≤ 14 then .error .illegalOperand
      else .ok (.cfgSet (w.extractLsb' 12 4) (eclOfBits (w.extractLsb' 8 2)) (w.extractLsb' 0 6)) := by
  simp only [decodeC, ne_eq, field_eq_zero, field_toNat]

/-! The operand check of R76 step 3 in numbers. -/

theorem wellFormed_bbAppend (n : BitVec 5) (x : BitVec 16) :
    (Instr.bbAppend n x).wellFormed = true ↔ n.toNat ≤ 16 ∧ x.toNat < 2 ^ n.toNat := by
  simp [Instr.wellFormed, appendFieldsLegal]

theorem wellFormed_cfgSet (m : BitVec 4) (e : Ecl) (v : BitVec 6) :
    (Instr.cfgSet m e v).wellFormed = true ↔ m.toNat ≤ 7 ∨ m.toNat = 15 := by
  simp [Instr.wellFormed, maskFieldLegal]

/-! Decoding the encoder's words. -/

/-- The opcode of a command's word is the command's (R70). -/
theorem encode_opcode (i : Instr) : (encode i).toNat / 2 ^ 24 = (opcodeOf i).toNat := by
  have := encode_toNat i
  have := (operandBits i).isLt
  omega

/-- Bits 23..0 of a command's word are its operand bits (R70). -/
theorem encode_mod (i : Instr) : (encode i).toNat % 2 ^ 24 = (operandBits i).toNat := by
  have := encode_toNat i
  have := (operandBits i).isLt
  omega

theorem decodeN_encode {i : Instr} (h : i ∈ plainCommands) : decodeN (encode i) i = .ok i := by
  rw [decodeN_eq, if_pos (by rw [encode_mod, operandBits_of_plain h]; rfl)]

theorem decodeA_encode {n : BitVec 5} {x : BitVec 16} (h : (Instr.bbAppend n x).wellFormed = true) :
    decodeA (encode (.bbAppend n x)) = .ok (.bbAppend n x) := by
  have hbits := encode_mod (.bbAppend n x)
  rw [operandBits_bbAppend] at hbits
  have := n.isLt
  have := x.isLt
  have hres : (encode (.bbAppend n x)).toNat / 2 ^ 21 % 2 ^ 3 = 0 := by omega
  have hn : (encode (.bbAppend n x)).toNat / 2 ^ 16 % 2 ^ 5 = n.toNat := by omega
  have hx : (encode (.bbAppend n x)).toNat % 2 ^ 16 = x.toNat := by omega
  have hn' : (encode (.bbAppend n x)).extractLsb' 16 5 = n := by rw [← BitVec.toNat_inj, field_toNat, hn]
  have hx' : (encode (.bbAppend n x)).extractLsb' 0 16 = x := by
    rw [← BitVec.toNat_inj, field_toNat, Nat.pow_zero, Nat.div_one, hx]
  obtain ⟨hle, hlt⟩ := (wellFormed_bbAppend n x).mp h
  rw [decodeA_eq, hn, hx, hn', hx', if_neg (not_not.mpr hres), if_neg (by omega)]

theorem decodeC_encode {m : BitVec 4} {e : Ecl} {v : BitVec 6} (h : (Instr.cfgSet m e v).wellFormed = true) :
    decodeC (encode (.cfgSet m e v)) = .ok (.cfgSet m e v) := by
  have hbits := encode_mod (.cfgSet m e v)
  rw [operandBits_cfgSet] at hbits
  have := m.isLt
  have := (eclToBits e).isLt
  have := v.isLt
  have hm : (encode (.cfgSet m e v)).toNat / 2 ^ 12 % 2 ^ 4 = m.toNat := by omega
  have hm' : (encode (.cfgSet m e v)).extractLsb' 12 4 = m := by rw [← BitVec.toNat_inj, field_toNat, hm]
  have he' : (encode (.cfgSet m e v)).extractLsb' 8 2 = eclToBits e := by
    rw [← BitVec.toNat_inj, field_toNat]; omega
  have hv' : (encode (.cfgSet m e v)).extractLsb' 0 6 = v := by
    rw [← BitVec.toNat_inj, field_toNat]; omega
  have hlegal := (wellFormed_cfgSet m e v).mp h
  rw [decodeC_eq, hm, hm', he', hv', eclOfBits_eclToBits, if_neg (by omega), if_neg (by omega)]

/-- Settles O1, format by format: the word's opcode selects the command's own format, whose fields are the
operands. -/
theorem decodeOfEncodeIsTheCommand : Obligations.DecodeOfEncodeIsTheCommand := by
  intro i hwf
  rw [decode_of_opcode (encode_opcode i)]
  cases i with
  | bbAppend n x => exact decodeA_encode hwf
  | cfgSet m e v => exact decodeC_encode hwf
  | bbClear | rsEncode | gridBuild | maskSelect | outWrite | encode => exact decodeN_encode (by decide)

/-! Decoded commands are well formed. -/

theorem wellFormed_of_decodeA {w : Word} {i : Instr} (h : decodeA w = .ok i) : i.wellFormed = true := by
  rw [decodeA_eq] at h
  split at h
  · cases h
  · split at h
    · cases h
    · next hlegal =>
      cases h
      rw [wellFormed_bbAppend, field_toNat, field_toNat, Nat.pow_zero, Nat.div_one]
      omega

theorem wellFormed_of_decodeC {w : Word} {i : Instr} (h : decodeC w = .ok i) : i.wellFormed = true := by
  rw [decodeC_eq] at h
  split at h
  · cases h
  · split at h
    · cases h
    · next hlegal =>
      cases h
      rw [wellFormed_cfgSet, field_toNat]
      omega

theorem wellFormed_of_decode {w : Word} {i : Instr} (h : decode w = .ok i) : i.wellFormed = true := by
  rcases decode_cases w with herr | ⟨j, hj⟩
  · rw [herr] at h; cases h
  rw [decode_of_opcode hj] at h
  cases j with
  | bbAppend n x => exact wellFormed_of_decodeA h
  | cfgSet m e v => exact wellFormed_of_decodeC h
  | bbClear | rsEncode | gridBuild | maskSelect | outWrite | encode =>
    obtain ⟨rfl, -⟩ := decodeN_ok h; rfl

/-- Settles O2. -/
theorem encodeOfDecodeIsTheWord : Obligations.EncodeOfDecodeIsTheWord := fun _ _ h =>
  ⟨wellFormed_of_decode h, encode_of_decode h⟩

/-! The rejected words (R76). -/

theorem decode_of_opcode_not_mem {w : Word}
    (h : w.toNat / 2 ^ 24 ∉ [0x01, 0x02, 0x10, 0x20, 0x30, 0x40, 0x50, 0x60]) :
    decode w = .error .unassignedOpcode := by
  rcases decode_cases w with herr | ⟨i, hi⟩
  · exact herr
  · exact absurd (hi ▸ opcodeOf_mem i) h

theorem decode_of_plain_opcode {w : Word} (h : w.toNat / 2 ^ 24 ∈ [0x01, 0x20, 0x30, 0x40, 0x50, 0x60]) :
    ∃ i, decode w = decodeN w i := by
  obtain ⟨i, hi, hop⟩ : ∃ i ∈ plainCommands, (opcodeOf i).toNat = w.toNat / 2 ^ 24 := List.mem_map.mp h
  exact ⟨i, by rw [decode_of_opcode hop.symm, formatDecoder_of_plain hi]⟩

/-- Settles O3: the opcode selects a format, and the format's tests stand in R76's order. -/
theorem rejectedWordsAreRejectedInOrder : Obligations.RejectedWordsAreRejectedInOrder := by
  intro w
  have hA (h : w.toNat / 2 ^ 24 = 0x02) : decode w = decodeA w := decode_of_opcode (i := .bbAppend 0 0) h
  have hC (h : w.toNat / 2 ^ 24 = 0x10) : decode w = decodeC w := decode_of_opcode (i := .cfgSet 0 .low 0) h
  refine ⟨decode_of_opcode_not_mem, fun hop hlow => ?_, fun hop hres => ?_, fun hop hres => ?_,
    fun hop hres hbad => ?_, fun hop h16 h10 h6 hlo hhi => ?_⟩
  · obtain ⟨i, hi⟩ := decode_of_plain_opcode hop
    rw [hi, decodeN_eq, if_neg hlow]
  · rw [hA hop, decodeA_eq, if_pos hres]
  · rw [hC hop, decodeC_eq, if_pos hres]
  · rw [hA hop, decodeA_eq, if_neg (not_not.mpr hres), if_pos hbad]
  · rw [hC hop, decodeC_eq, if_neg (by omega), if_pos ⟨hlo, hhi⟩]

/-- Settles O4: each of the ten words is decoded. -/
theorem wordsOfTheFormatsDecode : Obligations.WordsOfTheFormatsDecode := by
  unfold Obligations.WordsOfTheFormatsDecode
  decide

end Sys2Proof
end

section
/-! The port (60_exceptions.md R305, R310, R314; 30_encoding.md R76, R77): what becomes of the word or the reset that a
step takes, and that no command stops the machine. -/

namespace Sys2Proof.Machine

/-- Every error but InternalInconsistency leaves FAULT alone (60_exceptions.md R303). -/
theorem raiseError_of_ne {e : ErrCode} (h : e ≠ .internalInconsistency) (w : Word) (s : State) :
    raiseError e w s = { s with err := e, errCmd := w } := by
  simp [raiseError, h]

/-! A word at the port: one lemma for each of its three fates. -/

theorem execWord_of_fault {s : State} (hf : s.fault = true) (w : Word) : execWord w s = .next s :=
  if_pos hf

theorem execWord_of_error {s : State} {w : Word} {d : DecodeError} (hf : s.fault = false) (h : decode w = .error d) :
    execWord w s = .next { s with err := .illegalCommand, errCmd := w } := by
  simp [execWord, hf, h, raiseError_of_ne]

theorem execWord_of_ok {s : State} {w : Word} {i : Instr} (hf : s.fault = false) (h : decode w = .ok i) :
    execWord w s = exec i s := by
  simp [execWord, hf, h]

/-- Settles O5: the two results of decoding are the two ways of R77. -/
theorem everyWordExecutesOrIsIllegal : Obligations.EveryWordExecutesOrIsIllegal := by
  intro w s hf
  cases h : decode w with
  | ok i => exact .inl ⟨i, encode_of_decode h, wellFormed_of_decode h, execWord_of_ok hf h⟩
  | error d => exact .inr (execWord_of_error hf h)

/-! A step. -/

theorem step_of_port_nil {s : State} (h : s.port = []) : step s = .next s := by
  rw [step, servePort, h]

theorem step_of_port_cons {s : State} {a : PortInput} {rest : List PortInput} (h : s.port = a :: rest) :
    step s = serve a { s with port := rest } := by
  rw [step, servePort, h]

/-- Settles O8: a step serves the head of the queue, and a served word has one of its three fates. -/
theorem stepServesTheOldestAction : Obligations.StepServesTheOldestAction := by
  intro s rest w
  refine ⟨step_of_port_nil, step_of_port_cons, fun hp hf => ?_, fun d hp hf hd => ?_, fun i hp hf hi => ?_⟩
  all_goals rw [step_of_port_cons hp, serve]
  · exact execWord_of_fault (s := { s with port := rest }) hf w
  · exact execWord_of_error hf hd
  · exact execWord_of_ok hf hi

theorem decode_of_decodeTableWord {nbits w : Nat} {i : Instr} (h : decodeTableWord nbits w = some i) :
    decode (BitVec.ofNat 32 (w % 2 ^ nbits)) = .ok i := by
  unfold decodeTableWord at h
  split at h
  · next hd => cases h; exact hd
  · cases h

/-- Settles O9: the placed word is the head of the queue, and taking it gives the state back. -/
theorem fetchedWordRunsNext : Obligations.FetchedWordRunsNext := by
  intro s nbits w i hf h
  calc step (s.withFetchWord nbits w)
      = execWord (BitVec.ofNat 32 (w % 2 ^ nbits)) s :=
        step_of_port_cons (issueFirst_port s (BitVec.ofNat 32 (w % 2 ^ nbits)))
    _ = exec i s := execWord_of_ok hf (decode_of_decodeTableWord h)

/-! No command stops the machine (20_memory.md R59, log 6). -/

/-- No state lets `f` end in an access that does not exist. -/
def NeverFaults (f : State → Body) : Prop := ∀ s x, f s ≠ .error (.fault x)

theorem NeverFaults.bind {f g : State → Body} (hf : NeverFaults f) (hg : NeverFaults g) :
    NeverFaults fun s => (f s).bind g := by
  intro s x h
  rcases bind_eq_error h with h | ⟨a, -, h⟩
  · exact hf s x h
  · exact hg a x h

theorem bbAppendBody_neverFaults (n : BitVec 5) (x : BitVec 16) : NeverFaults (bbAppendBody n x) := by
  intro s y
  rcases bbAppendBody_cases n x s with ⟨-, he⟩ | ⟨-, -, -, he⟩ | ⟨-, -, -, he⟩ <;> simp [he]

theorem cfgSetBody_neverFaults (mask : BitVec 4) (e : Ecl) (ver : BitVec 6) :
    NeverFaults (cfgSetBody mask e ver) := by
  intro s y
  rcases cfgSetBody_cases mask e ver s with ⟨-, he⟩ | ⟨_, -, -, he⟩ | ⟨_, -, -, -, he⟩ <;> simp [he]

theorem rsEncodeBody_neverFaults : NeverFaults rsEncodeBody := by
  intro s y
  rcases rsEncodeBody_cases s with ⟨-, he⟩ | ⟨-, he⟩ <;> simp [he]

theorem gridBuildBody_neverFaults : NeverFaults gridBuildBody := by
  intro s y
  rcases gridBuildBody_cases s with ⟨-, he⟩ | ⟨-, -, he⟩ | ⟨-, -, he⟩ <;> simp [he]

theorem maskSelectBody_neverFaults : NeverFaults maskSelectBody := by
  intro s y
  rcases maskSelectBody_cases s with ⟨-, he⟩ | ⟨-, he⟩ <;> simp [he]

/-- OUT_WRITE tests OUT_CAP before it writes (46_output.md R261), so the guard of `writeOut` is not reached. -/
theorem outWriteBody_neverFaults : NeverFaults outWriteBody := by
  intro s y
  rcases outWriteBody_cases s with ⟨-, he⟩ | ⟨-, -, he⟩ | ⟨-, -, _, he, -⟩ <;> simp [he]

theorem bodyOf_neverFaults (i : Instr) : NeverFaults (bodyOf i) := by
  cases i with
  | bbClear => intro s x h; cases h
  | bbAppend n x => exact bbAppendBody_neverFaults n x
  | cfgSet m e v => exact cfgSetBody_neverFaults m e v
  | rsEncode => exact rsEncodeBody_neverFaults
  | gridBuild => exact gridBuildBody_neverFaults
  | maskSelect => exact maskSelectBody_neverFaults
  | outWrite => exact outWriteBody_neverFaults
  | encode =>
    exact ((rsEncodeBody_neverFaults.bind gridBuildBody_neverFaults).bind maskSelectBody_neverFaults).bind
      outWriteBody_neverFaults

theorem exec_answers (i : Instr) (s : State) : ∃ t, exec i s = .next t := by
  rw [exec_eq_finish]
  match h : bodyOf i s with
  | .ok t => exact ⟨t, rfl⟩
  | .error (.raised e) => exact ⟨raiseError e (encode i) s, rfl⟩
  | .error (.fault x) => exact absurd h (bodyOf_neverFaults i s x)

theorem execWord_answers (w : Word) (s : State) : ∃ t, execWord w s = .next t := by
  cases hf : s.fault with
  | true => exact ⟨s, execWord_of_fault hf w⟩
  | false =>
    cases h : decode w with
    | ok i => rw [execWord_of_ok hf h]; exact exec_answers i s
    | error d => exact ⟨_, execWord_of_error hf h⟩

/-- Settles O11, action by action. -/
theorem everyStepAnswersANextState : Obligations.EveryStepAnswersANextState := by
  intro s
  match h : s.port with
  | [] => exact ⟨s, step_of_port_nil h⟩
  | .reset :: rest => exact ⟨_, step_of_port_cons h⟩
  | .command w :: rest => rw [step_of_port_cons h]; exact execWord_answers w _

end Sys2Proof.Machine
end

section
/-! The assembler (30_encoding.md R79, R80): the words of its forms, its refusals, and the long append. -/

namespace Sys2Proof

/-! The lines with operands. -/

theorem asmAppend_of_fits {n v : Nat} (h : n ≤ 16 ∧ v < 2 ^ n) :
    asmAppend n v = some (.bbAppend (BitVec.ofNat 5 n) (BitVec.ofNat 16 v)) := if_pos h

theorem asmAppend_of_not_fits {n v : Nat} (h : ¬(n ≤ 16 ∧ v < 2 ^ n)) : asmAppend n v = none := if_neg h

/-- NBITS of an operand that fits is the operand (R72). -/
theorem toNat_nbits {n : Nat} (hn : n ≤ 16) : (BitVec.ofNat 5 n).toNat = n :=
  Nat.mod_eq_of_lt (by omega)

/-- VALUE of an operand that fits is the operand (R72). -/
theorem toNat_value {n v : Nat} (hn : n ≤ 16) (hv : v < 2 ^ n) : (BitVec.ofNat 16 v).toNat = v :=
  Nat.mod_eq_of_lt (hv.trans_le (Nat.pow_le_pow_right (by decide) hn))

theorem encode_bbAppend_toNat {n v : Nat} (hn : n ≤ 16) (hv : v < 2 ^ n) :
    (encode (.bbAppend (BitVec.ofNat 5 n) (BitVec.ofNat 16 v))).toNat = 0x02000000 + n * 2 ^ 16 + v := by
  have hword := encode_toNat (.bbAppend (BitVec.ofNat 5 n) (BitVec.ofNat 16 v))
  rw [operandBits_bbAppend, toNat_nbits hn, toNat_value hn hv, show (opcodeOf (.bbAppend _ _)).toNat = 2 from rfl]
    at hword
  omega

/-- A mask operand fits where it is `auto` or a mask number (R79). -/
theorem asmMask_of_fits {m : Option Nat} (h : ∀ k, m = some k → k ≤ 7) :
    asmMask m = some (BitVec.ofNat 4 (m.getD 0xF)) := by
  cases m with
  | none => rfl
  | some k => exact if_pos (h k rfl)

theorem fits_of_asmMask {m : Option Nat} {mask : BitVec 4} (h : asmMask m = some mask) : ∀ k, m = some k → k ≤ 7 := by
  rintro k rfl
  by_contra hk
  rw [asmMask, if_neg hk] at h
  cases h

theorem asmEcl_of_fits {e : Nat} (h : e < 4) : asmEcl e = some (eclOfBits (BitVec.ofNat 2 e)) := if_pos h

theorem fits_of_asmEcl {e : Nat} {ecl : Ecl} (h : asmEcl e = some ecl) : e < 4 := by
  by_contra he
  rw [asmEcl, if_neg he] at h
  cases h

theorem asmCfg_of_fits {v e : Nat} {m : Option Nat} (hv : v < 64) (he : e < 4) (hm : ∀ k, m = some k → k ≤ 7) :
    asmCfg v e m
      = some (.cfgSet (BitVec.ofNat 4 (m.getD 0xF)) (eclOfBits (BitVec.ofNat 2 e)) (BitVec.ofNat 6 v)) := by
  simp [asmCfg, asmMask_of_fits hm, asmEcl_of_fits he, hv]

/-- A CFG_SET line that is assembled has operands that fit (R79). -/
theorem fits_of_asmCfg {v e : Nat} {m : Option Nat} {i : Instr} (h : asmCfg v e m = some i) :
    v < 64 ∧ e < 4 ∧ ∀ k, m = some k → k ≤ 7 := by
  unfold asmCfg at h
  split at h
  · next mask ecl hm he =>
    split at h
    · next hv => exact ⟨hv, fits_of_asmEcl he, fits_of_asmMask hm⟩
    · cases h
  · cases h

theorem encode_cfgSet_toNat {v e : Nat} {m : Option Nat} (hv : v < 64) (he : e < 4) (hm : ∀ k, m = some k → k ≤ 7) :
    (encode (.cfgSet (BitVec.ofNat 4 (m.getD 0xF)) (eclOfBits (BitVec.ofNat 2 e)) (BitVec.ofNat 6 v))).toNat
      = 0x10000000 + m.getD 0xF * 2 ^ 12 + e * 2 ^ 8 + v := by
  have hmask : m.getD 0xF < 16 := by
    cases m with
    | none => decide
    | some k => exact (hm k rfl).trans_lt (by decide)
  have hword :=
    encode_toNat (.cfgSet (BitVec.ofNat 4 (m.getD 0xF)) (eclOfBits (BitVec.ofNat 2 e)) (BitVec.ofNat 6 v))
  rw [operandBits_cfgSet, eclToBits_eclOfBits, show (opcodeOf (.cfgSet _ _ _)).toNat = 16 from rfl] at hword
  simp only [BitVec.toNat_ofNat] at hword
  omega

/-- Settles O6, form by form. -/
theorem assemblerGivesTheWords : Obligations.AssemblerGivesTheWords := by
  refine ⟨fun n v hn hv => ?_, fun n v h => ?_, fun v e m hv he hm => ?_, fun v e m h => ?_, by decide⟩
  · exact ⟨_, by rw [assemble, asmAppend_of_fits ⟨hn, hv⟩]; rfl, encode_bbAppend_toNat hn hv⟩
  · rw [assemble, asmAppend_of_not_fits h]; rfl
  · exact ⟨_, by rw [assemble, asmCfg_of_fits hv he hm]; rfl, encode_cfgSet_toNat hv he hm⟩
  · have hnone : asmCfg v e m = none := Option.eq_none_iff_forall_ne_some.mpr fun i hi => h (fits_of_asmCfg hi)
    rw [assemble, hnone]; rfl

/-! The long append (R80). -/

/-- The low `n` bits of a number, most significant first. -/
def msbFirst (n v : Nat) : List Bool := (List.range n).map fun k => v.testBit (n - 1 - k)

@[simp] theorem length_msbFirst (n v : Nat) : (msbFirst n v).length = n := by simp [msbFirst]

/-- The bits above position `b`, then the bits below it. -/
theorem msbFirst_add (a b v : Nat) : msbFirst (a + b) v = msbFirst a (v >>> b) ++ msbFirst b (v % 2 ^ b) := by
  simp only [msbFirst, List.range_add, List.map_append, List.map_map]
  congr 1
  · refine List.map_congr_left fun k hk => ?_
    have := List.mem_range.mp hk
    rw [Nat.testBit_shiftRight]
    congr 1
    omega
  · refine List.map_congr_left fun k hk => ?_
    have := List.mem_range.mp hk
    rw [Function.comp_apply, Nat.testBit_mod_two_pow, decide_eq_true (by omega), Bool.true_and]
    congr 1
    omega

/-- The bits above the low 16 of an `m + 16` bit number fit `m` bits. -/
theorem shiftRight_lt {m v : Nat} (hv : v < 2 ^ (m + 16)) : v >>> 16 < 2 ^ m := by
  rw [Nat.shiftRight_eq_div_pow]
  exact Nat.div_lt_of_lt_mul (by rwa [← Nat.pow_add, Nat.add_comm])

/-- BB_BITS of more than 16 bits is the append of its high bits, then that of its low 16 bits. -/
theorem assemble_bbBits_long {m v : Nat} (hlo : 0 < m) (hhi : m ≤ 16) (hv : v < 2 ^ (m + 16)) :
    assemble (.bbBits (m + 16) v) =
      some [.bbAppend (BitVec.ofNat 5 m) (BitVec.ofNat 16 (v >>> 16)),
        .bbAppend (BitVec.ofNat 5 16) (BitVec.ofNat 16 (v % 2 ^ 16))] := by
  have hlow : v &&& 0xFFFF = v % 2 ^ 16 := Nat.and_two_pow_sub_one_eq_mod v 16
  rw [assemble, if_neg (by omega), if_pos ⟨by omega, hv⟩, hlow, Nat.add_sub_cancel,
    asmAppend_of_fits ⟨hhi, shiftRight_lt hv⟩, asmAppend_of_fits ⟨le_rfl, Nat.mod_lt v (by decide)⟩]

end Sys2Proof

namespace Sys2Proof.Machine

theorem bitsMsbFirst_ofNat {n v : Nat} (hn : n ≤ 16) : bitsMsbFirst n (BitVec.ofNat 16 v) = msbFirst n v := by
  refine List.map_congr_left fun k hk => ?_
  have := List.mem_range.mp hk
  rw [BitVec.getLsbD_ofNat, decide_eq_true (by omega), Bool.true_and]

/-- The append that a BB_APPEND line of the assembler stands for, where its operands and its bits fit
(41_bitbuffer.md R103). -/
theorem exec_bbAppend_ofNat {n v : Nat} {s : State} (hn : n ≤ 16) (hv : v < 2 ^ n)
    (hroom : s.bb.length + n ≤ Config.bbCapBits) :
    exec (.bbAppend (BitVec.ofNat 5 n) (BitVec.ofNat 16 v)) s
      = .next (complete (invalidateCW { s with bb := s.bb ++ msbFirst n v })) := by
  have hbody := bbAppendBody_cases (BitVec.ofNat 5 n) (BitVec.ofNat 16 v) s
  rw [toNat_nbits hn, toNat_value hn hv, bitsMsbFirst_ofNat hn] at hbody
  rcases hbody with ⟨hbad, -⟩ | ⟨-, -, hfull, -⟩ | ⟨-, -, -, he⟩
  · omega
  · omega
  · rw [exec_eq_finish, bodyOf, he, finish_ok]

/-- Settles O7: the high bits are appended, then the low 16, and together they are the bits of the whole number. -/
theorem longAppendIsTwoAppends : Obligations.LongAppendIsTwoAppends := by
  rintro n v s hlo hhi hv - hroom
  obtain ⟨m, rfl⟩ : ∃ m, n = m + 16 := ⟨n - 16, by omega⟩
  have hhigh := exec_bbAppend_ofNat (s := s) (by omega) (shiftRight_lt hv)
    (by simp only [Config.bbCapBits]; omega)
  have hlow := exec_bbAppend_ofNat (v := v % 2 ^ 16)
    (s := complete (invalidateCW { s with bb := s.bb ++ msbFirst m (v >>> 16) })) le_rfl (Nat.mod_lt v (by decide))
    (by simp [Config.bbCapBits]; omega)
  refine ⟨_, _, _, _, assemble_bbBits_long (by omega) (by omega) hv, hhigh, hlow, ?_, rfl⟩
  rw [complete_bb, invalidateCW_bb, complete_bb, invalidateCW_bb, List.append_assoc, ← msbFirst_add]
  rfl

end Sys2Proof.Machine
end

section
/-! The BitBuffer (41_bitbuffer.md R100 to R104): what BB_CLEAR and BB_APPEND leave in it, and its byte view. -/

namespace Sys2Proof.Machine

/-! The bits BB_APPEND adds (R103). -/

@[simp] theorem length_bitsMsbFirst (n : Nat) (x : BitVec 16) : (bitsMsbFirst n x).length = n := by
  simp [bitsMsbFirst]

/-- Bit `i` of VALUE has the `n - 1 - i` more significant bits before it. -/
theorem getElem?_bitsMsbFirst {n i : Nat} (hi : i < n) (x : BitVec 16) :
    (bitsMsbFirst n x)[n - 1 - i]? = some (x.getLsbD i) := by
  have hpos : n - 1 - i < n := by omega
  rw [bitsMsbFirst, List.getElem?_map, List.getElem?_range hpos, Option.map_some, Nat.sub_sub_self (by omega)]

/-- BB_APPEND completes where its operands are legal and its bits fit. -/
theorem exec_bbAppend_of_fits {n : BitVec 5} {x : BitVec 16} {s : State} (hn : n.toNat ≤ 16)
    (hx : x.toNat < 2 ^ n.toNat) (hroom : s.bb.length + n.toNat ≤ Config.bbCapBits) :
    exec (.bbAppend n x) s = .next (complete (invalidateCW { s with bb := s.bb ++ bitsMsbFirst n.toNat x })) := by
  have h := exec_bbAppend_ofNat hn hx hroom
  rwa [← bitsMsbFirst_ofNat hn, BitVec.ofNat_toNat, BitVec.ofNat_toNat, BitVec.setWidth_eq, BitVec.setWidth_eq] at h

/-- Settles O18: the appended bits follow the old ones, and bit `i` of VALUE is found among them. -/
theorem bbAppendAppendsMostSignificantFirst : Obligations.BbAppendAppendsMostSignificantFirst := by
  intro n x s _ hn hx hroom
  refine ⟨_, exec_bbAppend_of_fits hn hx hroom, rfl, ?_⟩
  simp only [complete_bb, invalidateCW_bb]
  refine ⟨by simp, fun p hp => List.getElem?_append_left hp, fun i hi => ?_⟩
  rw [List.getElem?_append_right (Nat.le_add_right _ _), Nat.add_sub_cancel_left, getElem?_bitsMsbFirst hi]

/-- Settles O17: a BB_CLEAR is its body, which always completes. -/
theorem bbClearEmptiesAndInvalidates : Obligations.BbClearEmptiesAndInvalidates :=
  fun s _ => exec_eq_finish .bbClear s

/-- Settles O19: a failed command keeps the BitBuffer, and so does every completed body but BB_CLEAR's and
BB_APPEND's. -/
theorem bitBufferIsAppendOnly : Obligations.BitBufferIsAppendOnly := by
  intro i s t h
  rcases exec_next h with hbody | ⟨e, -, rfl⟩
  · cases i with
    | bbClear =>
      obtain rfl := bbClearBody_ok hbody
      exact .inr (.inl ⟨rfl, rfl⟩)
    | bbAppend n x =>
      obtain ⟨-, rfl⟩ := bbAppendBody_ok hbody
      exact .inr (.inr ⟨n, x, bitsMsbFirst n.toNat x, rfl, rfl, length_bitsMsbFirst _ _⟩)
    | _ => exact .inl (bodyOf_keeps_bb hbody nofun nofun)
  · exact .inl rfl

/-! The byte view (R101). -/

/-- The number with the `n` binary digits `b 0`, `b 1`, ..., the first the most significant. -/
def msbNumber (n : Nat) (b : Nat → Bool) : Nat := ((List.range n).map fun j => (b j).toNat * 2 ^ (n - 1 - j)).sum

theorem bbByte_eq_msbNumber (bb : List Bool) (i : Nat) :
    bbByte bb i = BitVec.ofNat 8 (msbNumber 8 fun j => bbBit bb (8 * i + j)) := rfl

/-- One more digit doubles the number and comes in as its lowest bit. -/
theorem msbNumber_succ (n : Nat) (b : Nat → Bool) : msbNumber (n + 1) b = Nat.bit (b n) (msbNumber n b) := by
  have hdouble : ∀ j ∈ List.range n, (b j).toNat * 2 ^ (n - j) = 2 * ((b j).toNat * 2 ^ (n - 1 - j)) := by
    intro j hj
    have hlt := List.mem_range.mp hj
    rw [show n - j = n - 1 - j + 1 by omega, Nat.pow_succ]
    ring
  rw [Nat.bit_val, msbNumber, msbNumber, List.range_succ]
  simp [List.map_congr_left hdouble, List.sum_map_mul_left]

/-- Digit `k` is bit `n - 1 - k`. -/
theorem testBit_msbNumber {n k : Nat} (hk : k < n) (b : Nat → Bool) : (msbNumber n b).testBit (n - 1 - k) = b k := by
  induction n with
  | zero => omega
  | succ n ih =>
    rw [msbNumber_succ]
    by_cases hlast : k = n
    · simp [hlast]
    · rw [show n + 1 - 1 - k = n - 1 - k + 1 by omega, Nat.testBit_bit_succ, ih (by omega)]

theorem getLsbD_bbByte (bb : List Bool) (i : Nat) {j : Nat} (hj : j < 8) :
    (bbByte bb i).getLsbD (7 - j) = bbBit bb (8 * i + j) := by
  rw [bbByte_eq_msbNumber, BitVec.getLsbD_ofNat, decide_eq_true (by omega), Bool.true_and]
  exact testBit_msbNumber hj _

theorem getElem?_dataCodewords {n i : Nat} (hi : i < n) (bb : List Bool) :
    (dataCodewords n bb)[i]? = some (bbByte bb i) := by
  rw [dataCodewords, List.getElem?_map, List.getElem?_range hi, Option.map_some]

/-- BB space shows the bytes of the BitBuffer (20_memory.md R51). -/
theorem readBB_of_lt (s : State) {i : Nat} (h : i < Config.bbCapBytes) : readBB s i = bbByte s.bb i := if_pos h

/-- BB space reads 0 from the capacity on (R51). -/
theorem readBB_of_le (s : State) {i : Nat} (h : Config.bbCapBytes ≤ i) : readBB s i = 0 := if_neg (Nat.not_lt.mpr h)

/-- Settles O20: a byte's bits are the digits of the number it is defined as, and BB space tests the index. -/
theorem bbByteIsMostSignificantFirst : Obligations.BbByteIsMostSignificantFirst :=
  ⟨fun bb i _ hj => getLsbD_bbByte bb i hj, fun _ bb _ hi => getElem?_dataCodewords hi bb,
    fun s _ => readBB_of_lt s, fun s _ => readBB_of_le s⟩

end Sys2Proof.Machine
end

section
/-! Configuration and tables (42_config.md R120 to R137): CFG_SET, the derived registers and the tables' properties. -/

namespace Sys2Proof.Machine

/-! CFG_SET (R121). -/

/-- A legal MASK field is a mask request, and it is that request's CONFIG field (R123; 10_state.md R25). -/
theorem maskReqOfField_of_legal {mask : BitVec 4} (h : maskFieldLegal mask = true) :
    ∃ req, maskReqOfField mask = some req ∧ req.field = mask := by
  rw [maskFieldLegal, Bool.or_eq_true, decide_eq_true_iff, decide_eq_true_iff] at h
  rcases h with hforced | hauto
  · have hlt : mask.toNat < 8 := by omega
    exact ⟨.forced ⟨mask.toNat, hlt⟩, dif_pos hlt, BitVec.ofNat_toNat 4 mask⟩
  · obtain rfl : mask = 15#4 := BitVec.eq_of_toNat_eq hauto
    exact ⟨.auto, rfl, rfl⟩

/-- CFG_SET completes where its mask field and its version are legal. -/
theorem exec_cfgSet_of_legal {mask : BitVec 4} {req : MaskReq} {ver : BitVec 6} (e : Ecl) (s : State)
    (hreq : maskReqOfField mask = some req) (hlo : 1 ≤ ver.toNat) (hhi : ver.toNat ≤ 40) :
    exec (.cfgSet mask e ver) s
      = .next (complete (invalidateCW { s with version := ver, ecl := e, maskReq := req })) := by
  have hbody : cfgSetBody mask e ver s
      = .ok (complete (invalidateCW { s with version := ver, ecl := e, maskReq := req })) := by
    rcases cfgSetBody_cases mask e ver s with ⟨hnone, -⟩ | ⟨_, -, hver, -⟩ | ⟨req', hreq', -, -, hok⟩
    · rw [hreq] at hnone; cases hnone
    · omega
    · rw [hreq] at hreq'; cases hreq'; exact hok
  rw [exec_eq_finish, bodyOf, hbody, finish_ok]

/-- CONFIG and the operands of CFG_SET have one layout (10_state.md R25, 30_encoding.md R73). -/
theorem configWord_eq_encode_low (s : State) :
    configWord s = encode (.cfgSet s.maskReq.field s.ecl s.version) &&& 0xFFFF := by
  apply BitVec.eq_of_toNat_eq
  have hver := s.version.isLt
  have hecl := (eclToBits s.ecl).isLt
  have hmask := s.maskReq.field.isLt
  rw [configWord_toNat, BitVec.toNat_and, encode_toNat, operandBits_cfgSet]
  change _ = _ &&& (2 ^ 16 - 1)
  rw [Nat.and_two_pow_sub_one_eq_mod]
  omega

/-- Settles O21: the mask field is legal, so the command completes, and CONFIG shares the word's layout. -/
theorem cfgSetWritesConfig : Obligations.CfgSetWritesConfig := by
  intro mask e ver s _ hmask hlo hhi
  obtain ⟨req, hreq, hfield⟩ := maskReqOfField_of_legal hmask
  refine ⟨_, exec_cfgSet_of_legal e s hreq hlo hhi, ?_, rfl, rfl, hfield, rfl⟩
  rw [← hfield]
  exact configWord_eq_encode_low _

/-! The derived registers (R136). -/

/-- CONFIG.VERSION has six bits. -/
theorem State.v_lt (s : State) : s.v < 64 := s.version.isLt

/-- A table entry is listed, or it belongs to no version of the table and reads 0 (log 15). -/
theorem romEntry_eq_zero_or_mem (column : List Nat) (v : Nat) : romEntry column v = 0 ∨ romEntry column v ∈ column := by
  unfold romEntry
  split
  · exact .inl rfl
  · by_cases hv : v - 1 < column.length
    · rw [List.getD_eq_getElem _ _ hv]; exact .inr (List.getElem_mem hv)
    · rw [List.getD_eq_default _ _ (not_lt.mp hv)]; exact .inl rfl

/-- No table entry exceeds a bound of the whole table, at any version. -/
theorem romEntry_le {column : List Nat} {b : Nat} (h : ∀ n ∈ column, n ≤ b) (v : Nat) : romEntry column v ≤ b := by
  rcases romEntry_eq_zero_or_mem column v with hzero | hmem
  · omega
  · exact h _ hmem

/-- The values ECC_PER_BLOCK takes (R137). -/
theorem mem_eccPerBlockTable {e : Ecl} {n : Nat} (h : n ∈ eccPerBlockTable e) :
    n ∈ [7, 10, 13, 15, 16, 17, 18, 20, 22, 24, 26, 28, 30] := by
  revert n; cases e <;> decide

theorem eccPerBlock_le (v : Nat) (e : Ecl) : eccPerBlock v e ≤ 30 :=
  romEntry_le (by cases e <;> decide) v

theorem numBlocks_le (v : Nat) (e : Ecl) : numBlocks v e ≤ 81 :=
  romEntry_le (by cases e <;> decide) v

section
variable {v : Nat} (h : v < 64)
include h

/-- A generous bound of the codeword count, at every number the VERSION field can hold. -/
theorem rawCw_le_of_lt : rawCw v ≤ 71632 := by
  have hmodules : rawModules v ≤ (16 * v + 128) * v + 64 := (Nat.sub_le _ _).trans (Nat.sub_le _ _)
  have hsquare : (16 * v + 128) * v ≤ (16 * 63 + 128) * 63 := Nat.mul_le_mul (by omega) (by omega)
  rw [rawCw]
  omega

theorem side_le_of_lt : side v ≤ 269 := by rw [side]; omega

theorem outLen_le_of_lt : outLen v ≤ (269 ^ 2 + 7) / 8 + 1 := by
  have hsquare : side v ^ 2 ≤ 269 ^ 2 := Nat.pow_le_pow_left (side_le_of_lt h) 2
  rw [outLen]
  omega

end

theorem dataCw_le_rawCw (v : Nat) (e : Ecl) : dataCw v e ≤ rawCw v := Nat.sub_le _ _

/-- The derived registers are wide enough for their functions, whatever CONFIG holds. -/
theorem readReg_derived_toNat (s : State) :
    (readReg s 4).toNat = side s.v ∧ (readReg s 5).toNat = dataCw s.v s.ecl ∧ (readReg s 6).toNat = rawCw s.v
    ∧ (readReg s 7).toNat = numBlocks s.v s.ecl ∧ (readReg s 8).toNat = eccPerBlock s.v s.ecl
    ∧ (readReg s 9).toNat = outLen s.v := by
  have hside := side_le_of_lt s.v_lt
  have hraw := rawCw_le_of_lt s.v_lt
  have hdata := dataCw_le_rawCw s.v s.ecl
  have hblocks := numBlocks_le s.v s.ecl
  have hecc := eccPerBlock_le s.v s.ecl
  have hout := outLen_le_of_lt s.v_lt
  refine ⟨?_, ?_, ?_, ?_, ?_, ?_⟩ <;> exact Nat.mod_eq_of_lt (by omega)

/-- The derived registers depend on VERSION and ECL only. -/
theorem readReg_derived_congr {s t : State} (hver : t.version = s.version) (hecl : t.ecl = s.ecl) {r : Nat}
    (hlo : 4 ≤ r) (hhi : r ≤ 9) : readReg t r = readReg s r := by
  interval_cases r <;> simp only [readReg, State.v, hver, hecl]

/-- Settles O22: the registers hold their functions whole, and those read VERSION and ECL, which only CFG_SET
changes. -/
theorem derivedRegistersFollowConfig : Obligations.DerivedRegistersFollowConfig := by
  refine ⟨readReg_derived_toNat, fun i s t h hi r => ?_, by decide⟩
  obtain ⟨-, -, hconfig, -⟩ := commandsChangeOnlyTheirState i s t h
  obtain ⟨hver, hecl, -⟩ := hconfig hi
  exact readReg_derived_congr hver hecl

/-! The properties of the tables (R128 to R130, R137). -/

section
variable {v : Nat} (hlo : Config.vMin ≤ v) (hhi : v ≤ Config.vMax)
include hlo hhi

theorem one_le_numBlocks (e : Ecl) : 1 ≤ numBlocks v e :=
  of_versions hlo hhi (P := fun v e => 1 ≤ numBlocks v e) (by decide +kernel) e

theorem one_le_shortBlockDataLen (e : Ecl) : 1 ≤ shortBlockDataLen v e :=
  of_versions hlo hhi (P := fun v e => 1 ≤ shortBlockDataLen v e) (by decide +kernel) e

/-- The long blocks are a remainder by the number of blocks, so at least one block is short (R130). -/
theorem one_le_numShortBlocks (e : Ecl) : 1 ≤ numShortBlocks v e := by
  have hlong : rawCw v % numBlocks v e < numBlocks v e := Nat.mod_lt _ (one_le_numBlocks hlo hhi e)
  rw [numShortBlocks]
  omega

theorem eccPerBlock_mem (e : Ecl) : eccPerBlock v e ∈ [7, 10, 13, 15, 16, 17, 18, 20, 22, 24, 26, 28, 30] := by
  have hpos := one_le_eccPerBlock hlo hhi e
  rcases romEntry_eq_zero_or_mem (eccPerBlockTable e) v with hzero | hmem
  · rw [eccPerBlock] at hpos; omega
  · exact mem_eccPerBlockTable hmem

theorem dataCw_strictly_decreases :
    dataCw v .medium < dataCw v .low ∧ dataCw v .quartile < dataCw v .medium ∧ dataCw v .high < dataCw v .quartile :=
  of_versions hlo hhi
    (P := fun v _ => dataCw v .medium < dataCw v .low ∧ dataCw v .quartile < dataCw v .medium
      ∧ dataCw v .high < dataCw v .quartile) (by decide +kernel) .low

end

/-- Settles O23: the finite tables give the entries, and division with remainder the short blocks. -/
theorem tableProperties : Obligations.TableProperties :=
  ⟨fun v e hlo hhi => ⟨one_le_shortBlockDataLen hlo hhi e, one_le_numShortBlocks hlo hhi e,
      eccPerBlock_mem hlo hhi e, numBlocks_le v e⟩,
    fun _ => dataCw_strictly_decreases, by decide, by decide⟩

/-- Settles O24, from the sums that give CW its length. -/
theorem blockLengthsSumToDataCodewords : Obligations.BlockLengthsSumToDataCodewords :=
  fun _ e hlo hhi => ⟨sum_blockLens hlo hhi e, dataCw_add_ecc hlo hhi e⟩

end Sys2Proof.Machine
end

section
/-! Multiplication in GF(256) (43_reed_solomon.md R150, R151): the product commutes with doubling, so multiplying by
`α^i` is doubling `i` times, and doubling runs through every nonzero byte. -/

namespace Sys2Proof.Machine

/-! Doubling. -/

/-- Doubling in GF(256), the first half of a round of R150. -/
def gdouble (z : Byte) : Byte := (z <<< 1) ^^^ (if z.getLsbD 7 then 0x1D else 0)

theorem gmulRound_eq (a b z : Byte) (i : Nat) : gmulRound a b z i = gdouble z ^^^ (if b.getLsbD i then a else 0) := by
  have hdouble : ∀ z : Byte,
      BitVec.truncate 8 (z.zeroExtend 9 <<< 1 ^^^ (if z.getLsbD 7 then Config.gfPoly else 0)) = gdouble z := by
    decide +kernel
  change (if b.getLsbD i then BitVec.truncate 8 _ ^^^ a else BitVec.truncate 8 _) = _
  rw [hdouble]
  split
  · rfl
  · exact BitVec.xor_zero.symm

theorem gdouble_xor (y z : Byte) : gdouble (y ^^^ z) = gdouble y ^^^ gdouble z := by
  unfold gdouble
  rw [BitVec.getLsbD_xor, BitVec.shiftLeft_xor_distrib]
  have hreduce : ∀ p q : Bool, (if p ^^ q then (0x1D : Byte) else 0)
      = (if p then 0x1D else 0) ^^^ (if q then 0x1D else 0) := by decide
  rw [hreduce]
  ac_rfl

theorem iterate_gdouble_xor (n : Nat) (y z : Byte) : gdouble^[n] (y ^^^ z) = gdouble^[n] y ^^^ gdouble^[n] z :=
  Function.Semiconj₂.iterate gdouble_xor n y z

/-- Every round commutes with doubling, and so does the product. -/
theorem gmul_gdouble_left (a b : Byte) : gmul (gdouble a) b = gdouble (gmul a b) := by
  have hround : ∀ z i, gmulRound (gdouble a) b (gdouble z) i = gdouble (gmulRound a b z i) := by
    intro z i
    rw [gmulRound_eq, gmulRound_eq, gdouble_xor]
    split <;> rfl
  exact List.foldl_hom (init := 0) gdouble hround

theorem gmul_two (a : Byte) : gmul a 2 = gdouble a := by
  revert a; decide +kernel

theorem zero_gmul (b : Byte) : gmul 0 b = 0 := by
  revert b; decide +kernel

theorem one_gmul (b : Byte) : gmul 1 b = b := by
  revert b; decide +kernel

/-! The powers of α. -/

theorem gexp_eq_iterate (i : Nat) : gexp i = gdouble^[i] 1 := by
  induction i with
  | zero => rfl
  | succ i ih => rw [gexp, gmul_two, ih, Function.iterate_succ_apply']

theorem gmul_iterate_gdouble_left (i : Nat) (a b : Byte) : gmul (gdouble^[i] a) b = gdouble^[i] (gmul a b) :=
  (show Function.Semiconj (gmul · b) gdouble gdouble from fun a => gmul_gdouble_left a b).iterate_right i a

theorem gexp_gmul (i : Nat) (b : Byte) : gmul (gexp i) b = gdouble^[i] b := by
  rw [gexp_eq_iterate, gmul_iterate_gdouble_left, one_gmul]

theorem gexp_gmul_gexp (i j : Nat) : gmul (gexp i) (gexp j) = gexp (i + j) := by
  rw [gexp_gmul, gexp_eq_iterate, gexp_eq_iterate, Function.iterate_add_apply]

theorem isPeriodicPt_gdouble : Function.IsPeriodicPt gdouble 255 1 := by
  change gdouble^[255] 1 = 1
  decide +kernel

theorem gexp_255 : gexp 255 = 1 := (gexp_eq_iterate 255).trans isPeriodicPt_gdouble

theorem gexp_mod (i : Nat) : gexp (i % 255) = gexp i := by
  rw [gexp_eq_iterate, gexp_eq_iterate, isPeriodicPt_gdouble.iterate_mod_apply]

/-- The powers of α have the period 255: it divides 255, and no proper divisor is a period. -/
theorem minimalPeriod_gdouble : Function.minimalPeriod gdouble 1 = 255 := by
  have hdvd : Function.minimalPeriod gdouble 1 ∣ 255 := isPeriodicPt_gdouble.minimalPeriod_dvd
  have hperiod := Function.iterate_minimalPeriod (f := gdouble) (x := 1)
  have hproper : ∀ d ∈ Nat.properDivisors 255, gdouble^[d] 1 ≠ 1 := by decide +kernel
  by_contra hne
  exact hproper _ (Nat.mem_properDivisors.mpr ⟨hdvd, lt_of_le_of_ne (Nat.le_of_dvd (by decide) hdvd) hne⟩) hperiod

theorem gexp_ne_zero (i : Nat) : gexp i ≠ 0 := by
  have hdouble : ∀ z : Byte, z ≠ 0 → gdouble z ≠ 0 := by decide +kernel
  induction i with
  | zero => decide
  | succ i ih => rw [gexp, gmul_two]; exact hdouble _ ih

theorem gexp_inj {i j : Nat} (hi : i < 255) (hj : j < 255) (h : gexp i = gexp j) : i = j := by
  rw [gexp_eq_iterate, gexp_eq_iterate] at h
  have hinj := Function.iterate_injOn_Iio_minimalPeriod (f := gdouble) (x := (1 : Byte))
  rw [minimalPeriod_gdouble] at hinj
  exact hinj hi hj h

/-- The 255 powers are distinct and nonzero, so they are all of the 255 nonzero bytes (R151). -/
theorem exists_gexp_eq {a : Byte} (ha : a ≠ 0) : ∃ i < 255, gexp i = a := by
  have hsub : (Finset.range 255).image gexp ⊆ Finset.univ.erase 0 := by
    intro b hb
    obtain ⟨i, -, rfl⟩ := Finset.mem_image.mp hb
    exact Finset.mem_erase.mpr ⟨gexp_ne_zero i, Finset.mem_univ _⟩
  have hcard : ((Finset.range 255).image gexp).card = 255 := by
    rw [Finset.card_image_of_injOn, Finset.card_range]
    exact fun i hi j hj h => gexp_inj (by simpa using hi) (by simpa using hj) h
  have hbytes : (Finset.univ.erase (0 : Byte)).card = 255 := by decide +kernel
  have hmem : a ∈ (Finset.range 255).image gexp := by
    rw [Finset.eq_of_subset_of_card_le hsub (by rw [hcard, hbytes])]
    exact Finset.mem_erase.mpr ⟨ha, Finset.mem_univ a⟩
  simpa using hmem

/-- `log` inverts `exp` on the nonzero bytes. -/
theorem gexp_glog {a : Byte} (ha : a ≠ 0) : gexp (glog a) = a ∧ glog a < 255 := by
  obtain ⟨i, hi, hia⟩ := exists_gexp_eq ha
  obtain ⟨j, hj⟩ : ∃ j, (List.range 255).find? (fun i => gexp i == a) = some j :=
    Option.isSome_iff_exists.mp (List.find?_isSome.mpr ⟨i, List.mem_range.mpr hi, by simp [hia]⟩)
  rw [glog, hj]
  exact ⟨by simpa using List.find?_some hj, List.mem_range.mp (List.mem_of_find?_eq_some hj)⟩

/-- A byte is zero or a power of α. -/
theorem eq_zero_or_gexp (a : Byte) : a = 0 ∨ ∃ i, a = gexp i := by
  by_cases ha : a = 0
  · exact .inl ha
  · exact .inr ⟨glog a, (gexp_glog ha).1.symm⟩

/-! The field laws (R161). -/

theorem gmul_zero (a : Byte) : gmul a 0 = 0 := by
  revert a; decide +kernel

theorem gmul_comm (a b : Byte) : gmul a b = gmul b a := by
  rcases eq_zero_or_gexp a with rfl | ⟨i, rfl⟩
  · rw [zero_gmul, gmul_zero]
  rcases eq_zero_or_gexp b with rfl | ⟨j, rfl⟩
  · rw [zero_gmul, gmul_zero]
  · rw [gexp_gmul_gexp, gexp_gmul_gexp, Nat.add_comm]

theorem gmul_assoc (a b c : Byte) : gmul (gmul a b) c = gmul a (gmul b c) := by
  rcases eq_zero_or_gexp a with rfl | ⟨i, rfl⟩
  · rw [zero_gmul, zero_gmul, zero_gmul]
  · rw [gexp_gmul, gexp_gmul, gmul_iterate_gdouble_left]

theorem gmul_xor (a b c : Byte) : gmul a (b ^^^ c) = gmul a b ^^^ gmul a c := by
  rcases eq_zero_or_gexp a with rfl | ⟨i, rfl⟩
  · rw [zero_gmul, zero_gmul, zero_gmul]; rfl
  · simp only [gexp_gmul, iterate_gdouble_xor]

theorem xor_gmul (a b c : Byte) : gmul (a ^^^ b) c = gmul a c ^^^ gmul b c := by
  rw [gmul_comm, gmul_xor, gmul_comm c, gmul_comm c]

theorem gmul_one (a : Byte) : gmul a 1 = a := by rw [gmul_comm, one_gmul]

/-- Settles O25: a nonzero factor is a power of α, and multiplying by one is repeated doubling, which is linear. -/
theorem gmulIsFieldMultiplication : Obligations.GmulIsFieldMultiplication :=
  ⟨gmul_comm, gmul_assoc, gmul_xor, gmul_one, gmul_zero, by decide⟩

/-- Multiplication adds logarithms (R151). -/
theorem gmul_eq_gexp_add_glog {a b : Byte} (ha : a ≠ 0) (hb : b ≠ 0) :
    gmul a b = gexp ((glog a + glog b) % 255) := by
  rw [gexp_mod, ← gexp_gmul_gexp, (gexp_glog ha).1, (gexp_glog hb).1]

/-- Settles O26: the powers run through the nonzero bytes, so every nonzero product adds logarithms. -/
theorem alphaIsPrimitive : Obligations.AlphaIsPrimitive := by
  refine ⟨fun a ha => ?_, fun i _ => gexp_ne_zero i, gexp_255, fun _ => gexp_glog, fun a b => ?_, by decide⟩
  · obtain ⟨i, hi, rfl⟩ := exists_gexp_eq ha
    exact ⟨i, hi, rfl, fun j hj => gexp_inj hj hi⟩
  · split
    · rcases ‹a = 0 ∨ b = 0› with rfl | rfl
      · exact zero_gmul b
      · exact gmul_zero a
    · obtain ⟨ha, hb⟩ := not_or.mp ‹¬(a = 0 ∨ b = 0)›
      exact gmul_eq_gexp_add_glog ha hb

end Sys2Proof.Machine
end

section
/-! The division by the generator polynomial (43_reed_solomon.md R152, R153, R161): it is linear, the generator vanishes
at its roots, and the division keeps the value at every point where the generator vanishes. -/

namespace Sys2Proof.Machine

/-! Linearity. -/

/-- One byte of the division is linear in the remainder so far and in the byte. -/
theorem remainderRound_xor {D R S : List Byte} (h : R.length = S.length) (a b : Byte) :
    remainderRound D (List.zipWith (· ^^^ ·) R S) (a ^^^ b)
      = List.zipWith (· ^^^ ·) (remainderRound D R a) (remainderRound D S b) := by
  have hhead : (List.zipWith (· ^^^ ·) R S).headD 0 = R.headD 0 ^^^ S.headD 0 := by
    cases R <;> cases S <;> simp_all
  have htail : (List.zipWith (· ^^^ ·) R S).tail ++ [0]
      = List.zipWith (· ^^^ ·) (R.tail ++ [0]) (S.tail ++ [0]) := by
    rw [List.tail_zipWith, List.zipWith_append (by simp [h])]; rfl
  have hentry : ∀ r s c : Byte, r ^^^ s ^^^ gmul c (a ^^^ b ^^^ (R.headD 0 ^^^ S.headD 0))
      = (r ^^^ gmul c (a ^^^ R.headD 0)) ^^^ (s ^^^ gmul c (b ^^^ S.headD 0)) := by
    intro r s c
    simp only [gmul_xor]
    ac_rfl
  rw [remainderRound, hhead, htail]
  refine List.ext_getElem (by simp [remainderRound, h]) fun i _ _ => ?_
  simp only [remainderRound, List.getElem_zipWith, hentry]

/-- Linearity of the whole division, from any two remainders of the divisor's length. -/
theorem foldl_remainderRound_xor {D A B R S : List Byte} (h : A.length = B.length) (hR : R.length = D.length)
    (hS : S.length = D.length) :
    (List.zipWith (· ^^^ ·) A B).foldl (remainderRound D) (List.zipWith (· ^^^ ·) R S)
      = List.zipWith (· ^^^ ·) (A.foldl (remainderRound D) R) (B.foldl (remainderRound D) S) := by
  induction A generalizing B R S with
  | nil => obtain rfl := List.length_eq_zero_iff.mp h.symm; rfl
  | cons a A ih =>
    obtain ⟨b, B, rfl⟩ := List.exists_cons_of_length_eq_add_one h.symm
    rw [List.zipWith_cons_cons, List.foldl_cons, remainderRound_xor (hR.trans hS.symm)]
    exact ih (Nat.succ.inj h) (length_remainderRound hR a) (length_remainderRound hS b)

/-- Settles O27: zero remainders add up to the zero remainder, and every byte of the division is linear. -/
theorem remainderIsLinear : Obligations.RemainderIsLinear := by
  intro D A B h
  have hzero : List.replicate D.length (0 : Byte)
      = List.zipWith (· ^^^ ·) (List.replicate D.length 0) (List.replicate D.length 0) := by simp
  rw [rsRemainder, hzero]
  exact foldl_remainderRound_xor h List.length_replicate List.length_replicate

/-! Values. -/

/-- The value at `x` of the polynomial `p`, continued from the value `a` of the coefficients before it (R153). -/
def evalFrom (x a : Byte) (p : List Byte) : Byte := p.foldl (fun acc c => gmul acc x ^^^ c) a

theorem polyEval_eq_evalFrom (x : Byte) (p : List Byte) : polyEval x p = evalFrom x 0 p := rfl

theorem polyEval_append (x : Byte) (p q : List Byte) : polyEval x (p ++ q) = evalFrom x (polyEval x p) q :=
  List.foldl_append

@[simp] theorem evalFrom_nil (x a : Byte) : evalFrom x a [] = a := rfl

@[simp] theorem evalFrom_cons (x a c : Byte) (p : List Byte) :
    evalFrom x a (c :: p) = evalFrom x (gmul a x ^^^ c) p := rfl

theorem evalFrom_append_zero (x a : Byte) (p : List Byte) : evalFrom x a (p ++ [0]) = gmul (evalFrom x a p) x := by
  simp [evalFrom]

theorem evalFrom_zero_replicate (x : Byte) (n : Nat) : evalFrom x 0 (List.replicate n 0) = 0 := by
  induction n with
  | zero => rfl
  | succ n ih => rw [List.replicate_succ, evalFrom_cons, zero_gmul]; exact ih

/-- Adding a multiple of one polynomial to another adds the multiple of its value. -/
theorem evalFrom_add_mul (x f a b : Byte) {p q : List Byte} (h : p.length = q.length) :
    evalFrom x (a ^^^ gmul b f) (List.zipWith (fun r c => r ^^^ gmul c f) p q)
      = evalFrom x a p ^^^ gmul (evalFrom x b q) f := by
  induction p generalizing q a b with
  | nil => obtain rfl := List.length_eq_zero_iff.mp h.symm; rfl
  | cons r p ih =>
    obtain ⟨c, q, rfl⟩ := List.exists_cons_of_length_eq_add_one h.symm
    rw [List.zipWith_cons_cons, evalFrom_cons, evalFrom_cons, evalFrom_cons, ← ih _ _ (Nat.succ.inj h)]
    congr 1
    rw [xor_gmul, xor_gmul, gmul_assoc, gmul_comm f, ← gmul_assoc]
    ac_rfl

/-! The generator (R152). -/

/-- The step of the next lemma: in both orders the product is `(a x + c) (x + root)`. -/
theorem gmul_divisorStep (x root a c : Byte) :
    gmul (gmul a (x ^^^ root) ^^^ c) x ^^^ gmul c root = gmul (gmul a x ^^^ c) (x ^^^ root) := by
  simp only [xor_gmul, gmul_xor, gmul_assoc, gmul_comm root x]
  ac_rfl

/-- A round multiplies by `x + root`. The polynomial may stand after coefficients of the value `a`, multiplied too. -/
theorem evalFrom_divisorRound (x root a c : Byte) (L : List Byte) :
    evalFrom x (gmul a (x ^^^ root) ^^^ c) (divisorRound root (c :: L))
      = gmul (evalFrom x a (c :: L)) (x ^^^ root) := by
  induction L generalizing a c with
  | nil => exact gmul_divisorStep x root a c
  | cons b L ih =>
    rw [divisorRound, evalFrom_cons, ← BitVec.xor_assoc, gmul_divisorStep, ih, evalFrom_cons, evalFrom_cons,
      evalFrom_cons]

/-- A round of a monic polynomial, whose leading 1 it moves out of the entries. -/
theorem polyEval_divisorRound (x root : Byte) (L : List Byte) :
    polyEval x (1 :: divisorRound root (1 :: L)) = gmul (polyEval x (1 :: L)) (x ^^^ root) := by
  rw [polyEval_eq_evalFrom, evalFrom_cons, zero_gmul, ← zero_gmul (x ^^^ root), evalFrom_divisorRound]
  rfl

/-- Rounds act on the entries from the right. -/
theorem divisorRound_tail (root : Byte) (D : List Byte) : divisorRound root D.tail = (divisorRound root D).tail := by
  match D with
  | [] => rfl
  | [_] => rfl
  | _ :: _ :: _ => rfl

theorem divisorRounds_tail (n : Nat) (root : Byte) (D : List Byte) :
    divisorRounds n root D.tail = (divisorRounds n root D).tail := by
  induction n generalizing root D with
  | zero => rfl
  | succ n ih => rw [divisorRounds, divisorRound_tail, ih, divisorRounds]

/-- A round moves the leading 1 one place to the left. -/
theorem divisorRound_monic (root : Byte) (n : Nat) (L : List Byte) :
    divisorRound root (List.replicate (n + 1) 0 ++ 1 :: L)
      = List.replicate n 0 ++ 1 :: divisorRound root (1 :: L) := by
  induction n with
  | zero => rw [List.replicate_one, List.singleton_append, divisorRound, zero_gmul]; rfl
  | succ n ih =>
    rw [List.replicate_succ, List.cons_append, List.replicate_succ, List.cons_append, divisorRound, zero_gmul,
      BitVec.xor_self, ← List.cons_append, ← List.replicate_succ, ih]
    rfl

/-- `n` rounds from a monic polynomial give a monic polynomial that vanishes where the old one did and at each root the
rounds used. -/
theorem divisorRounds_vanishes {x root : Byte} {n : Nat} {L : List Byte}
    (h : polyEval x (1 :: L) = 0 ∨ ∃ i < n, x = gmul root (gexp i)) :
    ∃ M, divisorRounds n root (List.replicate n 0 ++ 1 :: L) = 1 :: M ∧ polyEval x (1 :: M) = 0 := by
  induction n generalizing root L with
  | zero => exact ⟨L, rfl, h.resolve_right (by simp)⟩
  | succ n ih =>
    rw [divisorRounds, divisorRound_monic]
    refine ih ?_
    rcases h with hzero | ⟨i, hi, hroot⟩
    · exact .inl (by rw [polyEval_divisorRound, hzero, zero_gmul])
    · cases i with
      | zero =>
        rw [gexp, gmul_one] at hroot
        exact .inl (by rw [polyEval_divisorRound, hroot, BitVec.xor_self]; exact gmul_zero _)
      | succ i => exact .inr ⟨i, Nat.lt_of_succ_lt_succ hi, by rw [hroot, gexp, gmul_assoc, gmul_comm 2]⟩

/-- The generator of degree `d`, the divisor with its leading 1, vanishes at `α^i` for `i < d`. -/
theorem polyEval_generator {d i : Nat} (hi : i < d) : polyEval (gexp i) (1 :: rsDivisor d) = 0 := by
  obtain ⟨k, rfl⟩ := Nat.exists_eq_add_of_lt hi
  obtain ⟨M, hM, hzero⟩ := divisorRounds_vanishes (x := gexp i) (root := 1) (L := [])
    (.inr ⟨i, hi, (one_gmul _).symm⟩)
  have htail : rsDivisor (i + k + 1) = M := by
    rw [rsDivisor, Nat.add_sub_cancel, ← List.tail_cons (a := 1) (as := M), ← hM, ← divisorRounds_tail]
    rfl
  rw [htail, hzero]

/-! The division (R153). -/

/-- Taking one byte of the block in: the block so far, of the value `a`, followed by its remainder keeps vanishing
wherever the generator does. -/
theorem evalFrom_remainderRound {x : Byte} {D R : List Byte} (hD : polyEval x (1 :: D) = 0) (hpos : D ≠ [])
    (hlen : R.length = D.length) {a : Byte} (h : evalFrom x a R = 0) (b : Byte) :
    evalFrom x (gmul a x ^^^ b) (remainderRound D R b) = 0 := by
  have hR : R ≠ [] := List.ne_nil_of_length_pos (hlen ▸ List.length_pos_of_ne_nil hpos)
  obtain ⟨r, R, rfl⟩ := List.exists_cons_of_ne_nil hR
  -- the block followed by the old remainder is shifted one place, and a multiple of the generator is added
  have hshift : evalFrom x (gmul a x ^^^ r) (R ++ [0]) = 0 := by
    rw [evalFrom_append_zero, ← evalFrom_cons, h, zero_gmul]
  have hmul := evalFrom_add_mul x (b ^^^ r) (gmul a x ^^^ r) 1 (p := R ++ [0]) (q := D) (by simpa using hlen)
  have hgen : evalFrom x 1 D = 0 := by rwa [polyEval_eq_evalFrom, evalFrom_cons, zero_gmul] at hD
  rw [hshift, hgen, zero_gmul, one_gmul] at hmul
  have hcancel : gmul a x ^^^ r ^^^ (b ^^^ r) = gmul a x ^^^ b := by
    rw [BitVec.xor_comm b, BitVec.xor_assoc, ← BitVec.xor_assoc r, BitVec.xor_self, BitVec.zero_xor]
  rwa [hcancel] at hmul

/-- The whole division, from a remainder that vanishes after a block of the value `a`. -/
theorem evalFrom_foldl_remainderRound {x : Byte} {D R : List Byte} (hD : polyEval x (1 :: D) = 0) (hpos : D ≠ [])
    (hlen : R.length = D.length) {a : Byte} (h : evalFrom x a R = 0) (B : List Byte) :
    evalFrom x (evalFrom x a B) (B.foldl (remainderRound D) R) = 0 := by
  induction B generalizing a R with
  | nil => exact h
  | cons b B ih => exact ih (length_remainderRound hlen b) (evalFrom_remainderRound hD hpos hlen h b)

/-- A block followed by its remainder vanishes wherever the generator does. -/
theorem polyEval_append_rsRemainder {x : Byte} {D : List Byte} (hD : polyEval x (1 :: D) = 0) (hpos : D ≠ [])
    (B : List Byte) : polyEval x (B ++ rsRemainder B D) = 0 := by
  rw [polyEval_append]
  exact evalFrom_foldl_remainderRound hD hpos List.length_replicate (evalFrom_zero_replicate x _) B

/-- Settles O28: the generator vanishes at its roots, and a block followed by its remainder where the generator does. -/
theorem blockWithEccVanishesAtTheRoots : Obligations.BlockWithEccVanishesAtTheRoots := by
  intro B d i hd _ hi
  have hlen := length_rsDivisor hd
  refine ⟨(length_rsRemainder _ _).trans hlen, polyEval_append_rsRemainder (polyEval_generator hi) ?_ B⟩
  exact List.ne_nil_of_length_pos (by omega)

end Sys2Proof.Machine
end

section
/-! Block split, interleaving and RS_ENCODE (43_reed_solomon.md R154 to R156, R160): where the round-robin puts each
byte, and that it only reorders them. -/

namespace Sys2Proof.Machine

/-! The blocks (R154). -/

/-- Lengths that use up the data cut it without loss. -/
theorem flatten_splitBlocks {ns : List Nat} {d : List Byte} (h : d.length = ns.sum) :
    (splitBlocks ns d).flatten = d := by
  induction ns generalizing d with
  | nil => exact (List.length_eq_zero_iff.mp h).symm
  | cons n ns ih =>
    rw [List.sum_cons] at h
    rw [splitBlocks, List.flatten_cons, ih (by rw [List.length_drop]; omega), List.take_append_drop]

@[simp] theorem length_dataCodewords (n : Nat) (bb : List Bool) : (dataCodewords n bb).length = n := by
  simp [dataCodewords]

/-! One turn of the round-robin (R155). -/

/-- A turn in which every list has a byte takes one from each, in order. -/
theorem map_some_column {bs : List (List Byte)} {j : Nat} (h : ∀ b ∈ bs, j < b.length) :
    (column bs j).map some = bs.map (·[j]?) := by
  induction bs with
  | nil => rfl
  | cons b bs ih =>
    obtain ⟨hb, hbs⟩ := List.forall_mem_cons.mp h
    rw [column_cons, List.getElem?_eq_getElem hb, List.map_append, ih hbs, List.map_cons, List.getElem?_eq_getElem hb]
    rfl

theorem length_column {bs : List (List Byte)} {j : Nat} (h : ∀ b ∈ bs, j < b.length) :
    (column bs j).length = bs.length := by
  simpa using congrArg List.length (map_some_column h)

theorem getElem?_column {bs : List (List Byte)} {j : Nat} (h : ∀ b ∈ bs, j < b.length) {i : Nat} {b : List Byte}
    (hb : bs[i]? = some b) : (column bs j)[i]? = b[j]? := by
  have hbyte := congrArg (·[i]?) (map_some_column h)
  simp only [List.getElem?_map, hb, Option.map_some] at hbyte
  obtain ⟨c, hc, hcb⟩ := Option.map_eq_some_iff.mp hbyte
  exact hc.trans hcb

/-- Lists that have run out give nothing to a turn. -/
theorem column_eq_nil {bs : List (List Byte)} {j : Nat} (h : ∀ b ∈ bs, b.length ≤ j) : column bs j = [] :=
  List.filterMap_eq_nil_iff.mpr fun b hb => List.getElem?_eq_none (h b hb)

theorem column_append (bs cs : List (List Byte)) (j : Nat) : column (bs ++ cs) j = column bs j ++ column cs j :=
  List.filterMap_append

/-! All turns. -/

/-- Turn `j` starts after the `j` turns before it, here each of `n` bytes. -/
theorem getElem?_flatMap_range {f : Nat → List Byte} {n j m i : Nat} {c : Byte} (hf : ∀ k < j, (f k).length = n)
    (hj : j < m) (hc : (f j)[i]? = some c) : ((List.range m).flatMap f)[i + j * n]? = some c := by
  obtain ⟨k, rfl⟩ := Nat.exists_eq_add_of_lt hj
  have hbefore : ((List.range j).flatMap f).length = j * n := by
    rw [List.length_flatMap, List.map_congr_left fun k hk => hf k (List.mem_range.mp hk)]
    simp
  rw [Nat.add_assoc, List.range_add, List.range_succ_eq_map, List.map_cons, List.flatMap_append, List.flatMap_cons,
    List.getElem?_append_right (by omega), hbefore, Nat.add_sub_cancel]
  exact (List.getElem?_append_left (List.getElem?_eq_some_iff.mp hc).1).trans hc

/-- The first `n` turns of one list alone are its first `n` bytes. -/
theorem flatMap_range_getElem? (b : List Byte) (n : Nat) :
    (List.range n).flatMap (fun j => b[j]?.toList) = b.take n := by
  induction n with
  | zero => rfl
  | succ n ih => rw [List.range_succ, List.flatMap_append, ih, List.take_add_one]; simp

/-- Turns enough for the longest list only reorder the bytes. -/
theorem flatMap_column_perm {blocks : List (List Byte)} {n : Nat} (h : ∀ b ∈ blocks, b.length ≤ n) :
    ((List.range n).flatMap (column blocks)).Perm blocks.flatten := by
  induction blocks with
  | nil => simp [column]
  | cons b bs ih =>
    obtain ⟨hb, hbs⟩ := List.forall_mem_cons.mp h
    have hsplit := List.flatMap_append_perm (List.range n) (fun j => b[j]?.toList) (column bs)
    rw [flatMap_range_getElem?, List.take_of_length_le hb] at hsplit
    simp only [← column_cons] at hsplit
    exact hsplit.symm.trans ((ih hbs).append_left b)

/-! The final sequence. -/

/-- The data blocks of a BitBuffer (R154). -/
def dataBlocks (v : Nat) (e : Ecl) (bb : List Bool) : List (List Byte) :=
  splitBlocks (blockLens v e) (dataCodewords (dataCw v e) bb)

/-- The data part of the final sequence (R155). -/
def dataPart (v : Nat) (e : Ecl) (bb : List Bool) : List Byte :=
  (List.range (shortBlockDataLen v e + 1)).flatMap (column (dataBlocks v e bb))

/-- The ECC codewords of each block (R154). -/
def eccBlocks (v : Nat) (e : Ecl) (bb : List Bool) : List (List Byte) :=
  (dataBlocks v e bb).map fun b => rsRemainder b (rsDivisor (eccPerBlock v e))

/-- The ECC part of the final sequence (R155). -/
def eccPart (v : Nat) (e : Ecl) (bb : List Bool) : List Byte :=
  (List.range (eccPerBlock v e)).flatMap (column (eccBlocks v e bb))

theorem finalCodewords_eq_append (v : Nat) (e : Ecl) (bb : List Bool) :
    finalCodewords v e bb = dataPart v e bb ++ eccPart v e bb := rfl

section
variable {v : Nat} (hlo : Config.vMin ≤ v) (hhi : v ≤ Config.vMax) (e : Ecl) (bb : List Bool)
include hlo hhi

theorem map_length_dataBlocks : (dataBlocks v e bb).map List.length = blockLens v e :=
  map_length_splitBlocks (by rw [sum_blockLens hlo hhi, length_dataCodewords])

theorem flatten_dataBlocks : (dataBlocks v e bb).flatten = dataCodewords (dataCw v e) bb :=
  flatten_splitBlocks (by rw [sum_blockLens hlo hhi, length_dataCodewords])

theorem length_dataBlocks : (dataBlocks v e bb).length = numBlocks v e := by
  rw [← List.length_map (f := List.length), map_length_dataBlocks hlo hhi, blockLens, List.length_map,
    List.length_range]

theorem length_of_getElem?_dataBlocks {i : Nat} {b : List Byte} (hb : (dataBlocks v e bb)[i]? = some b) :
    b.length = blockDataLen v e i := by
  have hi : i < numBlocks v e := length_dataBlocks hlo hhi e bb ▸ (List.getElem?_eq_some_iff.mp hb).1
  have hlens := congrArg (·[i]?) (map_length_dataBlocks hlo hhi e bb)
  simpa [hb, blockLens, hi] using hlens

theorem length_le_of_mem_dataBlocks : ∀ b ∈ dataBlocks v e bb, b.length ≤ shortBlockDataLen v e + 1 := fun _ hb =>
  le_of_mem_blockLens (map_length_dataBlocks hlo hhi e bb ▸ List.mem_map_of_mem hb)

theorem shortBlockDataLen_le_of_mem_dataBlocks : ∀ b ∈ dataBlocks v e bb, shortBlockDataLen v e ≤ b.length := by
  intro b hb
  obtain ⟨i, hi⟩ := List.getElem?_of_mem hb
  rw [length_of_getElem?_dataBlocks hlo hhi e bb hi, blockDataLen]
  split <;> omega

theorem dataPart_perm : (dataPart v e bb).Perm (dataCodewords (dataCw v e) bb) :=
  flatten_dataBlocks hlo hhi e bb ▸ flatMap_column_perm (length_le_of_mem_dataBlocks hlo hhi e bb)

theorem length_dataPart : (dataPart v e bb).length = dataCw v e :=
  (dataPart_perm hlo hhi e bb).length_eq.trans (length_dataCodewords _ _)

/-- Before the short blocks run out, every block gives a byte to each turn. -/
theorem lt_length_of_mem_dataBlocks {j : Nat} (hj : j < shortBlockDataLen v e) :
    ∀ b ∈ dataBlocks v e bb, j < b.length :=
  fun b hb => hj.trans_le (shortBlockDataLen_le_of_mem_dataBlocks hlo hhi e bb b hb)

theorem length_column_dataBlocks {j : Nat} (hj : j < shortBlockDataLen v e) :
    (column (dataBlocks v e bb) j).length = numBlocks v e :=
  (length_column (lt_length_of_mem_dataBlocks hlo hhi e bb hj)).trans (length_dataBlocks hlo hhi e bb)

/-- In the last turn the short blocks have run out, so only the long ones give a byte. -/
theorem column_shortBlockDataLen :
    column (dataBlocks v e bb) (shortBlockDataLen v e)
      = column ((dataBlocks v e bb).drop (numShortBlocks v e)) (shortBlockDataLen v e) := by
  have hshort : ∀ b ∈ (dataBlocks v e bb).take (numShortBlocks v e), b.length ≤ shortBlockDataLen v e := by
    intro b hb
    obtain ⟨i, hi, hib⟩ := List.mem_take_iff_getElem.mp hb
    rw [length_of_getElem?_dataBlocks hlo hhi e bb (List.getElem?_eq_some_iff.mpr ⟨_, hib⟩), blockDataLen,
      if_pos (by omega)]
  conv_lhs => rw [← List.take_append_drop (numShortBlocks v e) (dataBlocks v e bb)]
  rw [column_append, column_eq_nil hshort, List.nil_append]

theorem lt_length_of_mem_drop_numShortBlocks :
    ∀ b ∈ (dataBlocks v e bb).drop (numShortBlocks v e), shortBlockDataLen v e < b.length := by
  intro b hb
  obtain ⟨i, hi⟩ := List.getElem?_of_mem hb
  rw [List.getElem?_drop] at hi
  rw [length_of_getElem?_dataBlocks hlo hhi e bb hi, blockDataLen, if_neg (by omega)]
  omega

/-- Data byte `j` of block `i` (R155). -/
theorem getElem?_dataPart {i j : Nat} {b : List Byte} (hb : (dataBlocks v e bb)[i]? = some b) (hj : j < b.length) :
    (dataPart v e bb)[i + j * numBlocks v e - (if j = shortBlockDataLen v e then numShortBlocks v e else 0)]?
      = b[j]? := by
  have hblen := length_of_getElem?_dataBlocks hlo hhi e bb hb
  have hturns : ∀ k < shortBlockDataLen v e, (column (dataBlocks v e bb) k).length = numBlocks v e :=
    fun _ => length_column_dataBlocks hlo hhi e bb
  rw [List.getElem?_eq_getElem hj]
  by_cases hlast : j = shortBlockDataLen v e
  · subst hlast
    have hlong : numShortBlocks v e ≤ i := by
      by_contra hshort
      rw [blockDataLen, if_pos (by omega)] at hblen
      omega
    rw [if_pos rfl, Nat.sub_add_comm hlong]
    refine getElem?_flatMap_range hturns (Nat.lt_succ_self _) ?_
    have hdrop : ((dataBlocks v e bb).drop (numShortBlocks v e))[i - numShortBlocks v e]? = some b := by
      rw [List.getElem?_drop, Nat.add_sub_cancel' hlong, hb]
    rw [column_shortBlockDataLen hlo hhi, getElem?_column (lt_length_of_mem_drop_numShortBlocks hlo hhi e bb) hdrop]
    exact List.getElem?_eq_getElem hj
  · have hbefore : j < shortBlockDataLen v e := by
      have hle := length_le_of_mem_dataBlocks hlo hhi e bb b (List.mem_of_getElem? hb)
      omega
    rw [if_neg hlast, Nat.sub_zero]
    refine getElem?_flatMap_range (fun k hk => hturns k (hk.trans hbefore)) (hbefore.trans (Nat.lt_succ_self _)) ?_
    rw [getElem?_column (lt_length_of_mem_dataBlocks hlo hhi e bb hbefore) hb]
    exact List.getElem?_eq_getElem hj

theorem length_of_mem_eccBlocks : ∀ r ∈ eccBlocks v e bb, r.length = eccPerBlock v e := by
  intro r hr
  obtain ⟨b, -, rfl⟩ := List.mem_map.mp hr
  rw [length_rsRemainder, length_rsDivisor (one_le_eccPerBlock hlo hhi e)]

/-- ECC byte `j` of block `i` (R155): every block has one for every turn. -/
theorem getElem?_eccPart {i j : Nat} {b : List Byte} (hb : (dataBlocks v e bb)[i]? = some b)
    (hj : j < eccPerBlock v e) :
    (eccPart v e bb)[i + j * numBlocks v e]? = (rsRemainder b (rsDivisor (eccPerBlock v e)))[j]? := by
  have hecc : (eccBlocks v e bb)[i]? = some (rsRemainder b (rsDivisor (eccPerBlock v e))) := by
    rw [eccBlocks, List.getElem?_map, hb, Option.map_some]
  have hlong : ∀ k < eccPerBlock v e, ∀ r ∈ eccBlocks v e bb, k < r.length :=
    fun k hk r hr => (length_of_mem_eccBlocks hlo hhi e bb r hr).symm ▸ hk
  have hturns : ∀ k < j, (column (eccBlocks v e bb) k).length = numBlocks v e := by
    intro k hk
    rw [length_column (hlong k (hk.trans hj)), eccBlocks, List.length_map, length_dataBlocks hlo hhi]
  have hbyte := List.getElem?_eq_getElem (hlong j hj _ (List.mem_of_getElem? hecc))
  rw [hbyte]
  exact getElem?_flatMap_range hturns hj ((getElem?_column (hlong j hj) hecc).trans hbyte)

end

/-- Settles O29: the data part takes one byte of every block a turn, and in the last turn of the long blocks only; the
ECC part follows it and takes one byte of every block a turn. -/
theorem interleavingPlacesEveryByte : Obligations.InterleavingPlacesEveryByte := by
  intro v e bb hlo hhi
  have hlen := length_dataPart hlo hhi e bb
  refine ⟨length_finalCodewords hlo hhi e bb, flatten_dataBlocks hlo hhi e bb, map_length_dataBlocks hlo hhi e bb,
    fun i j b hb hj => ?_, fun i j b hb hj => ?_, ?_⟩
  · have hbyte := getElem?_dataPart hlo hhi e bb hb hj
    rw [List.getElem?_eq_getElem hj] at hbyte ⊢
    exact (List.getElem?_append_left (List.getElem?_eq_some_iff.mp hbyte).1).trans hbyte
  · rw [finalCodewords_eq_append, List.getElem?_append_right (by omega), hlen, Nat.add_assoc, Nat.add_sub_cancel_left]
    exact getElem?_eccPart hlo hhi e bb hb hj
  · rw [finalCodewords_eq_append, List.take_left' hlen]
    exact dataPart_perm hlo hhi e bb

/-- Settles O30: the length is right, so the command is its body's completed branch. -/
theorem rsEncodeWritesTheCodewords : Obligations.RsEncodeWritesTheCodewords := by
  intro s _ hlen
  rcases rsEncodeBody_cases s with ⟨hne, -⟩ | ⟨-, hok⟩
  · exact absurd hlen hne
  · rw [exec_eq_finish, bodyOf, hok, finish_ok]; rfl

end Sys2Proof.Machine
end

section
/-! The alignment patterns' places and the first region that holds a module (44_grid_layout.md R181 to R189). -/

namespace Sys2Proof.Machine

/-- The only element of a list that satisfies `p` is the one that `find?` finds. -/
theorem find?_eq_some_of_unique {α : Type} {p : α → Bool} {l : List α} {c : α} (hc : c ∈ l) (hp : p c = true)
    (huniq : ∀ d ∈ l, p d = true → d = c) : l.find? p = some c := by
  cases h : l.find? p with
  | none => exact absurd hp (List.find?_eq_none.mp h c hc)
  | some d => rw [huniq d (List.mem_of_find?_eq_some h) (List.find?_some h)]

@[simp] theorem within_eq_true {r x y : Nat} {c : Nat × Nat} :
    within r x y c = true ↔ absDiff x c.1 ≤ r ∧ absDiff y c.2 ≤ r := by
  simp [within]

/-! The regions a module lies in, as ranges of its coordinates. -/

theorem inCorner_eq_true {v x y : Nat} : inCorner v x y = true ↔
    (x ≤ 8 ∧ y ≤ 8) ∨ (side v - 8 ≤ x ∧ x ≤ side v - 1 ∧ y ≤ 8)
    ∨ (x ≤ 8 ∧ side v - 8 ≤ y ∧ y ≤ side v - 1) := by
  simp [inCorner, and_assoc, or_assoc]

theorem mem_finderCentres {v : Nat} {c : Nat × Nat} :
    c ∈ finderCentres v ↔ c = (3, 3) ∨ c = (side v - 4, 3) ∨ c = (3, side v - 4) := by
  simp only [finderCentres, List.mem_cons, List.not_mem_nil, or_false]

theorem inVersionTopRight_eq_true {v x y : Nat} : inVersionTopRight v x y = true ↔
    7 ≤ v ∧ side v - 11 ≤ x ∧ x ≤ side v - 9 ∧ y ≤ 5 := by
  simp [inVersionTopRight, and_assoc]

theorem inVersionBottomLeft_eq_true {v x y : Nat} : inVersionBottomLeft v x y = true ↔
    7 ≤ v ∧ x ≤ 5 ∧ side v - 11 ≤ y ∧ y ≤ side v - 9 := by
  simp [inVersionBottomLeft, and_assoc]

theorem alignBlock?_isSome {v x y : Nat} : (alignBlock? v x y).isSome = true ↔
    ∃ c ∈ alignCentres v, absDiff x c.1 ≤ 2 ∧ absDiff y c.2 ≤ 2 := by
  simp [alignBlock?, -Prod.exists]

/-- `FUNC(v)` region by region (R180). -/
theorem isFunc_eq_true {v x y : Nat} : isFunc v x y = true ↔
    x = 6 ∨ y = 6 ∨ inCorner v x y = true
    ∨ (∃ c ∈ alignCentres v, absDiff x c.1 ≤ 2 ∧ absDiff y c.2 ≤ 2)
    ∨ inVersionTopRight v x y = true ∨ inVersionBottomLeft v x y = true := by
  rw [← alignBlock?_isSome]
  simp only [isFunc, Bool.or_eq_true, decide_eq_true_eq, or_assoc]

/-- A module of the format area lies in column 8 or in row 8, outside the finder regions and the timing lines
(R185). -/
theorem coordinates_of_mem_formatArea {v x y : Nat} (h : (x, y) ∈ formatArea v) :
    (x = 8 ∧ (y ≤ 5 ∨ y = 7 ∨ y = 8 ∨ (side v - 8 ≤ y ∧ y < side v)))
    ∨ (y = 8 ∧ (x ≤ 5 ∨ x = 7 ∨ (side v - 8 ≤ x ∧ x < side v))) := by
  have hside : side v = 4 * v + 17 := rfl
  simp only [formatArea, List.mem_append, List.mem_map, List.mem_range, List.mem_singleton] at h
  rcases h with (⟨i, hi, h⟩ | ⟨i, hi, h⟩) | h
  · unfold formatModuleA at h
    split_ifs at h <;> cases h <;> omega
  · unfold formatModuleB at h
    split_ifs at h <;> cases h <;> omega
  · cases h; omega

section
variable {v : Nat} (hlo : 1 ≤ v) (hhi : v ≤ 40)
include hlo hhi

/-- The legal versions, one for each entry of a table of 40, so that a fact about every version is a finite table. -/
theorem exists_version : ∃ k : Fin 40, v = k + 1 :=
  ⟨⟨v - 1, by omega⟩, by simp only; omega⟩

/-- Where an alignment centre can be (R184): its coordinates are even, it lies on a timing line well between two
finders or well inside both lines, and its block lies in the grid. -/
theorem alignCentre_place : ∀ c ∈ alignCentres v,
    c.1 % 2 = 0 ∧ c.2 % 2 = 0 ∧ c.1 + 7 ≤ side v ∧ c.2 + 7 ≤ side v
    ∧ ((c.1 = 6 ∧ 18 ≤ c.2 ∧ c.2 + 19 ≤ side v) ∨ (c.2 = 6 ∧ 18 ≤ c.1 ∧ c.1 + 19 ≤ side v)
      ∨ (18 ≤ c.1 ∧ 18 ≤ c.2)) := by
  obtain ⟨k, rfl⟩ := exists_version hlo hhi
  decide +revert +kernel

/-- The coordinates of the alignment centres are the table's, which are 5 apart or more (42_config.md R135). -/
theorem alignCentre_coordinates : (∀ c ∈ alignCentres v, c.1 ∈ alignPos v ∧ c.2 ∈ alignPos v)
    ∧ ∀ a ∈ alignPos v, ∀ b ∈ alignPos v, a ≠ b → 5 ≤ absDiff a b := by
  obtain ⟨k, rfl⟩ := exists_version hlo hhi
  decide +revert +kernel

/-- Two alignment blocks never overlap: their centres are 5 apart in a coordinate (R184). -/
theorem alignCentres_apart {c d : Nat × Nat} (hc : c ∈ alignCentres v) (hd : d ∈ alignCentres v) (hne : c ≠ d) :
    5 ≤ absDiff c.1 d.1 ∨ 5 ≤ absDiff c.2 d.2 := by
  obtain ⟨hmem, hapart⟩ := alignCentre_coordinates hlo hhi
  by_cases h1 : c.1 = d.1
  · exact .inr (hapart _ (hmem c hc).2 _ (hmem d hd).2 fun h2 => hne (Prod.ext h1 h2))
  · exact .inl (hapart _ (hmem c hc).1 _ (hmem d hd).1 h1)

/-- An alignment block touches a timing line between two finders only, and lies inside both lines otherwise
(R184). -/
theorem alignBlock_place {x y : Nat} {c : Nat × Nat} (hc : c ∈ alignCentres v)
    (hxy : absDiff x c.1 ≤ 2 ∧ absDiff y c.2 ≤ 2) :
    x + 5 ≤ side v ∧ y + 5 ≤ side v
    ∧ ((c.1 = 6 ∧ 16 ≤ y ∧ y + 17 ≤ side v) ∨ (c.2 = 6 ∧ 16 ≤ x ∧ x + 17 ≤ side v)
      ∨ (16 ≤ x ∧ 16 ≤ y)) := by
  have hplace := alignCentre_place hlo hhi c hc
  unfold absDiff at hxy
  omega

end

/-! Which region decides a colour (R189). -/

/-- Outside the three finder regions no finder is found. -/
theorem finder?_eq_none {v x y : Nat} : finder? v x y = none ↔
    ¬(absDiff x 3 ≤ 4 ∧ absDiff y 3 ≤ 4) ∧ ¬(absDiff x (side v - 4) ≤ 4 ∧ absDiff y 3 ≤ 4)
    ∧ ¬(absDiff x 3 ≤ 4 ∧ absDiff y (side v - 4) ≤ 4) := by
  rw [finder?, List.find?_eq_none]
  simp only [finderCentres, List.forall_mem_cons, List.not_mem_nil, false_implies, implies_true, and_true,
    within_eq_true]

/-- The finder regions do not overlap, so the finder found is the one at whose centre one looks. -/
theorem finder?_eq_some {v x y : Nat} {c : Nat × Nat} (hc : c ∈ finderCentres v)
    (hxy : absDiff x c.1 ≤ 4 ∧ absDiff y c.2 ≤ 4) : finder? v x y = some c := by
  refine find?_eq_some_of_unique hc (within_eq_true.mpr hxy) fun d hd hin => ?_
  have hside : side v = 4 * v + 17 := rfl
  rw [within_eq_true] at hin
  rw [mem_finderCentres] at hc hd
  unfold absDiff at hxy hin
  rcases hc with rfl | rfl | rfl <;> rcases hd with rfl | rfl | rfl <;> rw [Prod.mk.injEq] <;> omega

/-- Outside every alignment block no alignment pattern is found. -/
theorem alignBlock?_eq_none {v x y : Nat} : alignBlock? v x y = none ↔
    ∀ c ∈ alignCentres v, ¬(absDiff x c.1 ≤ 2 ∧ absDiff y c.2 ≤ 2) := by
  simp only [alignBlock?, List.find?_eq_none, within_eq_true]

/-- The alignment blocks do not overlap, so the pattern found is the one in whose block one looks. -/
theorem alignBlock?_eq_some {v x y : Nat} (hlo : 1 ≤ v) (hhi : v ≤ 40) {c : Nat × Nat}
    (hc : c ∈ alignCentres v) (hxy : absDiff x c.1 ≤ 2 ∧ absDiff y c.2 ≤ 2) : alignBlock? v x y = some c := by
  refine find?_eq_some_of_unique hc (within_eq_true.mpr hxy) fun d hd hin => ?_
  by_contra hne
  have hapart := alignCentres_apart hlo hhi hd hc hne
  rw [within_eq_true] at hin
  unfold absDiff at hxy hin hapart
  omega

section
variable {v x y : Nat}

theorem fcolour_of_finder {c : Nat × Nat} (h : finder? v x y = some c) :
    fcolour v x y = (decide (ringOf x y c ≠ 2) && decide (ringOf x y c ≠ 4)) := by
  rw [fcolour, h]

theorem fcolour_of_alignBlock {c : Nat × Nat} (hf : finder? v x y = none) (ha : alignBlock? v x y = some c) :
    fcolour v x y = decide (ringOf x y c ≠ 1) := by
  rw [fcolour, hf, ha]

/-- The colour of a module outside the finder regions and the alignment blocks. -/
theorem fcolour_of_none (hf : finder? v x y = none) (ha : alignBlock? v x y = none) :
    fcolour v x y =
      if inVersionTopRight v x y then (versionBits v).testBit (3 * y + (x - (side v - 11)))
      else if inVersionBottomLeft v x y then (versionBits v).testBit (3 * x + (y - (side v - 11)))
      else if (formatArea v).contains (x, y) then false
      else if x = 6 then decide (y % 2 = 0)
      else decide (x % 2 = 0) := by
  rw [fcolour, hf, ha]

end

end Sys2Proof.Machine
end

section
/-! The version areas (44_grid_layout.md R187, R188). -/

namespace Sys2Proof.Machine

section
variable {v : Nat} (hlo : 7 ≤ v) (hhi : v ≤ 40)
include hlo hhi

/-- The version word has the version above its twelve check bits (R187). -/
theorem versionBits_div : versionBits v / 2 ^ 12 = v := by
  obtain ⟨k, rfl⟩ := exists_version (by omega) hhi
  decide +revert +kernel

/-- A version area overlaps no finder region and no alignment block (R184, R189). -/
theorem none_of_versionArea {x y : Nat} (h : inVersionTopRight v x y = true ∨ inVersionBottomLeft v x y = true) :
    finder? v x y = none ∧ alignBlock? v x y = none := by
  rw [inVersionTopRight_eq_true, inVersionBottomLeft_eq_true] at h
  have hside : side v = 4 * v + 17 := rfl
  rw [finder?_eq_none, alignBlock?_eq_none]
  constructor
  · unfold absDiff; omega
  · intro c hc hxy
    have hplace := alignBlock_place (by omega) hhi hc hxy
    unfold absDiff at hxy
    omega

/-- Bit `i` colours its module in the top-right area (R188). -/
theorem versionBit_topRight {i : Nat} (hi : i < 18) :
    isFunc v (side v - 11 + i % 3) (i / 3) = true
    ∧ fcolour v (side v - 11 + i % 3) (i / 3) = (versionBits v).testBit i := by
  have harea : inVersionTopRight v (side v - 11 + i % 3) (i / 3) = true :=
    inVersionTopRight_eq_true.mpr (by have hside : side v = 4 * v + 17 := rfl; omega)
  obtain ⟨hf, ha⟩ := none_of_versionArea hlo hhi (.inl harea)
  refine ⟨isFunc_eq_true.mpr (by simp [harea]), ?_⟩
  rw [fcolour_of_none hf ha, if_pos harea, Nat.add_sub_cancel_left, Nat.div_add_mod]

/-- Bit `i` colours its module in the bottom-left area, the mirror of the top-right one (R188). -/
theorem versionBit_bottomLeft {i : Nat} (hi : i < 18) :
    isFunc v (i / 3) (side v - 11 + i % 3) = true
    ∧ fcolour v (i / 3) (side v - 11 + i % 3) = (versionBits v).testBit i := by
  have hside : side v = 4 * v + 17 := rfl
  have harea : inVersionBottomLeft v (i / 3) (side v - 11 + i % 3) = true :=
    inVersionBottomLeft_eq_true.mpr (by omega)
  have hother : ¬inVersionTopRight v (i / 3) (side v - 11 + i % 3) = true := by
    rw [inVersionTopRight_eq_true]; omega
  obtain ⟨hf, ha⟩ := none_of_versionArea hlo hhi (.inr harea)
  refine ⟨isFunc_eq_true.mpr (by simp [harea]), ?_⟩
  rw [fcolour_of_none hf ha, if_neg hother, if_pos harea, Nat.add_sub_cancel_left, Nat.div_add_mod]

end

/-- Below version 7 there are no version areas (R188). -/
theorem no_versionArea {v : Nat} (h : v ≤ 6) (x y : Nat) :
    inVersionTopRight v x y = false ∧ inVersionBottomLeft v x y = false := by
  rw [← Bool.not_eq_true, ← Bool.not_eq_true, inVersionTopRight_eq_true, inVersionBottomLeft_eq_true]
  omega

/-- Settles O36: a version area meets no region that R189 puts before it, so the version word decides there. -/
theorem versionWordColoursItsModules : Obligations.VersionWordColoursItsModules := by
  refine ⟨fun v hlo hhi => ⟨versionBits_div hlo hhi, fun i hi => ?_⟩, fun v x y h => no_versionArea h x y, ?_⟩
  · obtain ⟨hfunc, hcol⟩ := versionBit_topRight hlo hhi hi
    exact ⟨hfunc, hcol, versionBit_bottomLeft hlo hhi hi⟩
  · decide

end Sys2Proof.Machine
end

section
/-! The colours of the function patterns (44_grid_layout.md R181 to R186, R189). -/

namespace Sys2Proof.Machine

/-! Finders and separators. -/

/-- A finder region lies in its corner rectangle (R181). -/
theorem isFunc_of_finder {v x y : Nat} {c : Nat × Nat} (hc : c ∈ finderCentres v) (hx : x < side v)
    (hy : y < side v) (hxy : absDiff x c.1 ≤ 4 ∧ absDiff y c.2 ≤ 4) : isFunc v x y = true := by
  refine isFunc_eq_true.mpr (.inr (.inr (.inl (inCorner_eq_true.mpr ?_))))
  have hside : side v = 4 * v + 17 := rfl
  rw [mem_finderCentres] at hc
  unfold absDiff at hxy
  rcases hc with rfl | rfl | rfl <;> omega

/-- In a finder region a module is dark but at the distances 2 and 4 (R181). -/
theorem fcolour_finder {v x y : Nat} {c : Nat × Nat} (hc : c ∈ finderCentres v)
    (hxy : max (absDiff x c.1) (absDiff y c.2) ≤ 4) : fcolour v x y = true ↔
      max (absDiff x c.1) (absDiff y c.2) ≠ 2 ∧ max (absDiff x c.1) (absDiff y c.2) ≠ 4 := by
  rw [fcolour_of_finder (finder?_eq_some hc (max_le_iff.mp hxy)), Bool.and_eq_true, decide_eq_true_eq,
    decide_eq_true_eq, ringOf]

/-- A line through the core by its distances: dark, light, dark, dark, dark, light, dark (R182). -/
theorem getD_coreLine {k d e : Nat} (hk : k < 7) (hd : d = absDiff k 3) (he : e ≤ 1) :
    [true, false, true, true, true, false, true].getD k false
      = (decide (max d e ≠ 2) && decide (max d e ≠ 4)) := by
  subst hd
  interval_cases e <;> interval_cases k <;> rfl

theorem finderCentre_ge {v : Nat} {c : Nat × Nat} (hc : c ∈ finderCentres v) : 3 ≤ c.1 ∧ 3 ≤ c.2 := by
  have hside : side v = 4 * v + 17 := rfl
  rw [mem_finderCentres] at hc
  rcases hc with rfl | rfl | rfl <;> dsimp only <;> omega

/-- The three rows and three columns through the core of a finder (R182). -/
theorem fcolour_core {v k j : Nat} {c : Nat × Nat} (hc : c ∈ finderCentres v) (hk : k < 7) (hj : j < 3) :
    fcolour v (c.1 - 3 + k) (c.2 - 1 + j) = [true, false, true, true, true, false, true].getD k false
    ∧ fcolour v (c.1 - 1 + j) (c.2 - 3 + k) = [true, false, true, true, true, false, true].getD k false := by
  obtain ⟨h1, h2⟩ := finderCentre_ge hc
  constructor
  · have hx : absDiff (c.1 - 3 + k) c.1 = absDiff k 3 := by unfold absDiff; omega
    have hy : absDiff (c.2 - 1 + j) c.2 ≤ 1 := by unfold absDiff; omega
    rw [fcolour_of_finder (finder?_eq_some hc ⟨by rw [hx]; unfold absDiff; omega, by omega⟩), ringOf]
    exact (getD_coreLine hk hx hy).symm
  · have hx : absDiff (c.1 - 1 + j) c.1 ≤ 1 := by unfold absDiff; omega
    have hy : absDiff (c.2 - 3 + k) c.2 = absDiff k 3 := by unfold absDiff; omega
    rw [fcolour_of_finder (finder?_eq_some hc ⟨by omega, by rw [hy]; unfold absDiff; omega⟩), ringOf, max_comm]
    exact (getD_coreLine hk hy hx).symm

section
variable {v : Nat} (hlo : 1 ≤ v) (hhi : v ≤ 40)
include hlo hhi

/-! Alignment blocks. -/

/-- An alignment block overlaps no finder region (R184). -/
theorem finder?_eq_none_of_alignBlock {x y : Nat} {c : Nat × Nat} (hc : c ∈ alignCentres v)
    (hxy : absDiff x c.1 ≤ 2 ∧ absDiff y c.2 ≤ 2) : finder? v x y = none := by
  have hplace := alignBlock_place hlo hhi hc hxy
  rw [finder?_eq_none]
  unfold absDiff
  omega

/-- In an alignment block a module is dark but at the distance 1 (R184). -/
theorem fcolour_alignBlock {x y : Nat} {c : Nat × Nat} (hc : c ∈ alignCentres v)
    (hxy : absDiff x c.1 ≤ 2 ∧ absDiff y c.2 ≤ 2) : fcolour v x y = decide (ringOf x y c ≠ 1) :=
  fcolour_of_alignBlock (finder?_eq_none_of_alignBlock hlo hhi hc hxy) (alignBlock?_eq_some hlo hhi hc hxy)

theorem alignBlock_modules {a b : Nat} {c : Nat × Nat} (hc : c ∈ alignCentres v) (ha : a < 5) (hb : b < 5) :
    isFunc v (c.1 - 2 + a) (c.2 - 2 + b) = true
    ∧ fcolour v (c.1 - 2 + a) (c.2 - 2 + b) = decide (max (absDiff a 2) (absDiff b 2) ≠ 1) := by
  have hplace := alignCentre_place hlo hhi c hc
  have hx : absDiff (c.1 - 2 + a) c.1 = absDiff a 2 := by unfold absDiff; omega
  have hy : absDiff (c.2 - 2 + b) c.2 = absDiff b 2 := by unfold absDiff; omega
  have hxy : absDiff (c.1 - 2 + a) c.1 ≤ 2 ∧ absDiff (c.2 - 2 + b) c.2 ≤ 2 := by
    rw [hx, hy]; unfold absDiff; omega
  exact ⟨isFunc_eq_true.mpr (.inr (.inr (.inr (.inl ⟨c, hc, hxy⟩)))),
    by rw [fcolour_alignBlock hlo hhi hc hxy, ringOf, hx, hy]⟩

/-! Timing lines. -/

/-- A module of a timing line between two finders that lies in no alignment block has the line's colour (R183):
the other regions of R189 do not reach it. -/
theorem fcolour_bareTiming {x y k : Nat} (hk : 8 ≤ k) (hk' : k ≤ side v - 9)
    (hxy : (x = 6 ∧ y = k) ∨ (x = k ∧ y = 6))
    (ha : ∀ c ∈ alignCentres v, ¬(absDiff x c.1 ≤ 2 ∧ absDiff y c.2 ≤ 2)) :
    fcolour v x y = decide (k % 2 = 0) := by
  have hside : side v = 4 * v + 17 := rfl
  have hf : finder? v x y = none := by rw [finder?_eq_none]; unfold absDiff; omega
  have hformat : ¬(formatArea v).contains (x, y) = true := fun h => by
    have hplace := coordinates_of_mem_formatArea (List.contains_iff_mem.mp h)
    omega
  rw [fcolour_of_none hf (alignBlock?_eq_none.mpr ha), if_neg (by rw [inVersionTopRight_eq_true]; omega),
    if_neg (by rw [inVersionBottomLeft_eq_true]; omega), if_neg hformat]
  rcases hxy with ⟨rfl, rfl⟩ | ⟨rfl, rfl⟩
  · rw [if_pos rfl]
  · rw [if_neg (by omega)]

/-- On a timing line between two finders a module is dark at even positions (R183), inside an alignment block too:
the block's centre lies on the line at an even position (R184). -/
theorem fcolour_timing {x y k : Nat} (hk : 8 ≤ k) (hk' : k ≤ side v - 9)
    (hxy : (x = 6 ∧ y = k) ∨ (x = k ∧ y = 6)) : fcolour v x y = decide (k % 2 = 0) := by
  by_cases hblock : ∃ c ∈ alignCentres v, absDiff x c.1 ≤ 2 ∧ absDiff y c.2 ≤ 2
  · obtain ⟨c, hc, hin⟩ := hblock
    have hplace := alignCentre_place hlo hhi c hc
    rw [fcolour_alignBlock hlo hhi hc hin, decide_eq_decide, ringOf]
    unfold absDiff at hin ⊢
    omega
  · exact fcolour_bareTiming hlo hhi hk hk' hxy fun c hc hin => hblock ⟨c, hc, hin⟩

/-! The format area. -/

/-- The format area lies in the corner rectangles, outside the regions that R189 puts before it (R185). -/
theorem formatArea_blank {x y : Nat} (h : (x, y) ∈ formatArea v) : isFunc v x y = true ∧ fcolour v x y = false := by
  have hside : side v = 4 * v + 17 := rfl
  have hplace := coordinates_of_mem_formatArea h
  have hf : finder? v x y = none := by rw [finder?_eq_none]; unfold absDiff; omega
  have ha : alignBlock? v x y = none := alignBlock?_eq_none.mpr fun c hc hxy => by
    have := alignBlock_place hlo hhi hc hxy
    omega
  refine ⟨isFunc_eq_true.mpr (.inr (.inr (.inl (inCorner_eq_true.mpr (by omega))))), ?_⟩
  rw [fcolour_of_none hf ha, if_neg (by rw [inVersionTopRight_eq_true]; omega),
    if_neg (by rw [inVersionBottomLeft_eq_true]; omega), if_pos (List.contains_iff_mem.mpr h)]

end

theorem formatModuleB_injOn {v i j : Nat} (hi : i < 15) (hj : j < 15) (h : formatModuleB v i = formatModuleB v j) :
    i = j := by
  have hside : side v = 4 * v + 17 := rfl
  unfold formatModuleB at h
  split_ifs at h <;> rw [Prod.mk.injEq] at h <;> omega

/-- The two copies and the dark module are 31 different modules (R185): copy A keeps to the top-left corner, copy B
to the other two, and the dark module lies just above copy B's part in column 8. -/
theorem formatArea_nodup (v : Nat) : (formatArea v).Nodup := by
  have hside : side v = 4 * v + 17 := rfl
  have hA : ((List.range 15).map formatModuleA).Nodup := by decide
  have hB : ((List.range 15).map (formatModuleB v)).Nodup :=
    List.nodup_range.map_on fun i hi j hj => formatModuleB_injOn (List.mem_range.mp hi) (List.mem_range.mp hj)
  have hAin : ∀ p ∈ (List.range 15).map formatModuleA, p.1 ≤ 8 ∧ p.2 ≤ 8 := by decide
  have hBout : ∀ p ∈ (List.range 15).map (formatModuleB v), (8 < p.1 ∨ 8 < p.2) ∧ p ≠ darkModule v := by
    intro p hp
    obtain ⟨i, hi, rfl⟩ := List.mem_map.mp hp
    rw [List.mem_range] at hi
    unfold formatModuleB darkModule
    split_ifs <;> rw [Ne, Prod.mk.injEq] <;> dsimp only <;> omega
  refine (hA.append hB fun p hpA hpB => ?_).append (List.nodup_singleton _) fun p hp hdark => ?_
  · have hin := hAin p hpA
    have hout := (hBout p hpB).1
    omega
  · obtain rfl := List.mem_singleton.mp hdark
    rcases List.mem_append.mp hp with hpA | hpB
    · have hin := (hAin _ hpA).2
      rw [darkModule] at hin
      omega
    · exact (hBout _ hpB).2 rfl

@[simp] theorem length_formatArea (v : Nat) : (formatArea v).length = 31 := by
  simp [formatArea]

/-- Settles O35, pattern by pattern. -/
theorem functionPatternColours : Obligations.FunctionPatternColours := by
  intro v hlo hhi
  refine ⟨rfl, fun c hc x hx y hy hxy => ⟨isFunc_of_finder hc hx hy (max_le_iff.mp hxy), fcolour_finder hc hxy⟩,
    fun c hc k hk j hj => fcolour_core hc hk hj,
    fun k hk hk' => ⟨isFunc_eq_true.mpr (.inl rfl), fcolour_timing hlo hhi hk hk' (.inl ⟨rfl, rfl⟩),
      isFunc_eq_true.mpr (.inr (.inl rfl)), fcolour_timing hlo hhi hk hk' (.inr ⟨rfl, rfl⟩)⟩,
    fun c hc a ha b hb => alignBlock_modules hlo hhi hc ha hb, formatArea_nodup v, length_formatArea v,
    fun p hp => formatArea_blank hlo hhi hp⟩

end Sys2Proof.Machine
end

section
/-! The zigzag (44_grid_layout.md R190, R191) and the count of its modules (R193). -/

namespace Sys2Proof.Machine

/-! The column pairs. -/

/-- A column pair lies at or below the column it starts from, and right of column 0. -/
theorem pairColumns_bounds {n right r : Nat} (h : r ∈ pairColumns n right) : 1 ≤ r ∧ r ≤ right := by
  induction n generalizing right with
  | zero => cases h
  | succ n ih =>
    rw [pairColumns] at h
    split at h
    · cases h
    · dsimp only at h
      rcases List.mem_cons.mp h with rfl | h
      · split <;> omega
      · have := ih h
        split at this <;> omega

/-- Two column pairs never share a column. -/
theorem pairColumns_pairwise (n right : Nat) : (pairColumns n right).Pairwise fun r s => s + 2 ≤ r := by
  induction n generalizing right with
  | zero => exact List.Pairwise.nil
  | succ n ih =>
    rw [pairColumns]
    split
    · exact List.Pairwise.nil
    · refine List.pairwise_cons.mpr ⟨fun s hs => ?_, ih _⟩
      have := pairColumns_bounds hs
      omega

/-- The column pairs cover every column but the timing column: `right` is even until column 6 is skipped, odd from
then on, so the last pair ends at column 0. -/
theorem exists_pairColumn {n right x : Nat} (hn : right ≤ n) (hx : x ≤ right) (h6 : x ≠ 6)
    (hpar : (6 ≤ right ∧ right % 2 = 0) ∨ (right ≤ 5 ∧ right % 2 = 1)) :
    ∃ r ∈ pairColumns n right, x = r ∨ x = r - 1 := by
  induction n generalizing right with
  | zero => omega
  | succ n ih =>
    rw [pairColumns, if_neg (by omega)]
    dsimp only
    generalize hr : (if right = 6 then 5 else right) = r
    have hcases : (right = 6 ∧ r = 5) ∨ (right ≠ 6 ∧ r = right) := by split at hr <;> omega
    by_cases hpair : x = r ∨ x = r - 1
    · exact ⟨r, List.mem_cons_self, hpair⟩
    · obtain ⟨s, hs, hxs⟩ := ih (right := r - 2) (by omega) (by omega) (by omega)
      exact ⟨s, List.mem_cons_of_mem _ hs, hxs⟩

/-! The modules of a column pair. -/

/-- The row of the `vert`-th step of a sweep: from the bottom row up or from the top row down (R191). -/
def sweepRow (v right vert : Nat) : Nat := if (right + 1) &&& 2 = 0 then side v - 1 - vert else vert

/-- The data modules of one row of a column pair, right column first. -/
def pairRow (v right y : Nat) : List (Nat × Nat) := [(right, y), (right - 1, y)].filter fun p => !isFunc v p.1 p.2

theorem pairModules_eq (v right : Nat) :
    pairModules v right = (List.range (side v)).flatMap fun vert => pairRow v right (sweepRow v right vert) := rfl

theorem mem_pairRow {v r x y y' : Nat} :
    (x, y) ∈ pairRow v r y' ↔ (x = r ∨ x = r - 1) ∧ y = y' ∧ isFunc v x y = false := by
  simp only [pairRow, List.mem_filter, List.mem_cons, List.not_mem_nil, or_false, Prod.mk.injEq, Bool.not_eq_true']
  rw [← or_and_right, and_assoc]

theorem sweepRow_lt {v vert : Nat} (r : Nat) (h : vert < side v) : sweepRow v r vert < side v := by
  unfold sweepRow; split <;> omega

theorem sweepRow_inj {v r i j : Nat} (hi : i < side v) (hj : j < side v) (h : sweepRow v r i = sweepRow v r j) :
    i = j := by
  unfold sweepRow at h; split at h <;> omega

/-- A sweep visits every row. -/
theorem exists_sweepRow {v y : Nat} (r : Nat) (h : y < side v) : ∃ vert < side v, sweepRow v r vert = y := by
  unfold sweepRow
  split
  · exact ⟨side v - 1 - y, by omega, by omega⟩
  · exact ⟨y, h, rfl⟩

theorem mem_pairModules {v r x y : Nat} :
    (x, y) ∈ pairModules v r ↔ (x = r ∨ x = r - 1) ∧ y < side v ∧ isFunc v x y = false := by
  simp only [pairModules_eq, List.mem_flatMap, List.mem_range, mem_pairRow]
  constructor
  · rintro ⟨vert, hvert, hx, rfl, hdata⟩
    exact ⟨hx, sweepRow_lt r hvert, hdata⟩
  · rintro ⟨hx, hy, hdata⟩
    obtain ⟨vert, hvert, hrow⟩ := exists_sweepRow r hy
    exact ⟨vert, hvert, hx, hrow.symm, hdata⟩

theorem pairModules_nodup (v : Nat) {r : Nat} (hr : 1 ≤ r) : (pairModules v r).Nodup := by
  rw [pairModules_eq, List.nodup_flatMap]
  constructor
  · intro vert _
    refine List.Nodup.filter _ ?_
    have hne : r ≠ r - 1 := by omega
    simp [hne]
  · refine List.nodup_range.imp_of_mem fun {i j} hi hj hne => ?_
    rintro ⟨x, y⟩ hpi hpj
    obtain ⟨-, hyi, -⟩ := mem_pairRow.mp hpi
    obtain ⟨-, hyj, -⟩ := mem_pairRow.mp hpj
    exact hne (sweepRow_inj (List.mem_range.mp hi) (List.mem_range.mp hj) (hyi.symm.trans hyj))

/-! The whole order. -/

theorem zigzag_nodup (v : Nat) : (zigzag v).Nodup := by
  rw [zigzag, List.nodup_flatMap]
  constructor
  · exact fun r hr => pairModules_nodup v (pairColumns_bounds hr).1
  · refine (pairColumns_pairwise _ _).imp_of_mem fun {r s} hr hs hapart => ?_
    rintro ⟨x, y⟩ hpr hps
    obtain ⟨hxr, -⟩ := mem_pairModules.mp hpr
    obtain ⟨hxs, -⟩ := mem_pairModules.mp hps
    omega

/-- The zigzag's members are the data modules: column 6, which no pair has, is a timing line (R180, R190). -/
theorem mem_zigzag {v x y : Nat} : (x, y) ∈ zigzag v ↔ x < side v ∧ y < side v ∧ isFunc v x y = false := by
  have hside : side v = 4 * v + 17 := rfl
  rw [zigzag, List.mem_flatMap]
  constructor
  · rintro ⟨r, hr, hp⟩
    obtain ⟨hx, hy, hdata⟩ := mem_pairModules.mp hp
    have hbound := pairColumns_bounds hr
    exact ⟨by omega, hy, hdata⟩
  · rintro ⟨hx, hy, hdata⟩
    have h6 : x ≠ 6 := by
      rintro rfl
      rw [isFunc_eq_true.mpr (.inl rfl)] at hdata
      cases hdata
    obtain ⟨r, hr, hxr⟩ :=
      exists_pairColumn (n := side v) (right := side v - 1) (by omega) (by omega) h6 (by omega)
    exact ⟨r, hr, mem_pairModules.mpr ⟨hxr, hy, hdata⟩⟩

/-- Settles O31: the column pairs share no column and cover all but the timing column, and a sweep visits every row
once. -/
theorem zigzagListsEveryDataModuleOnce : Obligations.ZigzagListsEveryDataModuleOnce :=
  fun v _ _ => ⟨zigzag_nodup v, fun _ _ => mem_zigzag⟩

/-! The count: the function modules and the zigzag share out the square. -/

/-- A rectangle of modules: its left column and its width, its top row and its height. -/
structure Rect where
  left : Nat
  width : Nat
  top : Nat
  height : Nat

/-- The modules of a rectangle. -/
def Rect.cells (r : Rect) : List (Nat × Nat) := List.range' r.left r.width ×ˢ List.range' r.top r.height

/-- The rectangles lie side by side or one above the other. -/
abbrev Rect.Apart (r s : Rect) : Prop :=
  r.left + r.width ≤ s.left ∨ s.left + s.width ≤ r.left ∨ r.top + r.height ≤ s.top ∨ s.top + s.height ≤ r.top

theorem Rect.mem_cells {r : Rect} {x y : Nat} :
    (x, y) ∈ r.cells ↔ (r.left ≤ x ∧ x < r.left + r.width) ∧ r.top ≤ y ∧ y < r.top + r.height := by
  rw [Rect.cells, List.mem_product, List.mem_range'_1, List.mem_range'_1]

theorem Rect.length_cells (r : Rect) : r.cells.length = r.width * r.height := by
  rw [Rect.cells, List.length_product, List.length_range', List.length_range']

theorem Rect.cells_nodup (r : Rect) : r.cells.Nodup :=
  List.Nodup.product (List.nodup_range' ..) (List.nodup_range' ..)

theorem Rect.Apart.disjoint {r s : Rect} (h : r.Apart s) : r.cells.Disjoint s.cells := by
  rintro ⟨x, y⟩ hr hs
  rw [Rect.mem_cells] at hr hs
  omega

/-- The modules of an alignment block that are on no timing line. -/
def blockRects (c : Nat × Nat) : List Rect :=
  if c.1 = 6 then [⟨4, 2, c.2 - 2, 5⟩, ⟨7, 2, c.2 - 2, 5⟩]
  else if c.2 = 6 then [⟨c.1 - 2, 5, 4, 2⟩, ⟨c.1 - 2, 5, 7, 2⟩]
  else [⟨c.1 - 2, 5, c.2 - 2, 5⟩]

/-- The corners and the timing lines between them (R180). -/
def frameRects (v : Nat) : List Rect :=
  [⟨0, 9, 0, 9⟩, ⟨side v - 8, 8, 0, 9⟩, ⟨0, 9, side v - 8, 8⟩, ⟨6, 1, 9, side v - 17⟩, ⟨9, side v - 17, 6, 1⟩]

/-- The version areas of versions 7 and up (R180, R188). -/
def versionRects (v : Nat) : List Rect :=
  if 7 ≤ v then [⟨side v - 11, 3, 0, 6⟩, ⟨0, 6, side v - 11, 3⟩] else []

/-- `FUNC(v)` as rectangles without overlap (R180). -/
def funcRects (v : Nat) : List Rect := frameRects v ++ (alignCentres v).flatMap blockRects ++ versionRects v

theorem mem_frameCells {v x y : Nat} : (x, y) ∈ (frameRects v).flatMap Rect.cells ↔
    x < side v ∧ y < side v ∧ (x = 6 ∨ y = 6 ∨ inCorner v x y = true) := by
  have hside : side v = 4 * v + 17 := rfl
  rw [inCorner_eq_true]
  simp only [frameRects, List.flatMap_cons, List.flatMap_nil, List.append_nil, List.mem_append, Rect.mem_cells]
  omega

theorem mem_versionCells {v x y : Nat} : (x, y) ∈ (versionRects v).flatMap Rect.cells ↔
    x < side v ∧ y < side v ∧ (inVersionTopRight v x y = true ∨ inVersionBottomLeft v x y = true) := by
  have hside : side v = 4 * v + 17 := rfl
  rw [inVersionTopRight_eq_true, inVersionBottomLeft_eq_true, versionRects]
  split_ifs
  · simp only [List.flatMap_cons, List.flatMap_nil, List.append_nil, List.mem_append, Rect.mem_cells]
    omega
  · simp only [List.flatMap_nil, List.not_mem_nil, false_iff]
    omega

section
variable {v : Nat} (hlo : 1 ≤ v) (hhi : v ≤ 40)
include hlo hhi

theorem funcRects_apart : (funcRects v).Pairwise Rect.Apart := by
  obtain ⟨k, rfl⟩ := exists_version hlo hhi
  decide +revert +kernel

/-- The areas are what the geometry table leaves (42_config.md R126). -/
theorem funcRects_area : rawModules v + ((funcRects v).map fun r => r.width * r.height).sum = side v * side v := by
  obtain ⟨k, rfl⟩ := exists_version hlo hhi
  decide +revert +kernel

/-- What a block's rectangles hold. -/
theorem mem_blockCells {c : Nat × Nat} (hc : c ∈ alignCentres v) {x y : Nat} :
    (x, y) ∈ (blockRects c).flatMap Rect.cells ↔
      (absDiff x c.1 ≤ 2 ∧ absDiff y c.2 ≤ 2) ∧ x ≠ 6 ∧ y ≠ 6 := by
  have hplace := alignCentre_place hlo hhi c hc
  unfold blockRects absDiff
  split_ifs <;> simp only [List.flatMap_cons, List.flatMap_nil, List.append_nil, List.mem_append, Rect.mem_cells] <;>
    omega

/-- What the rectangles of all blocks hold. -/
theorem mem_alignCells {x y : Nat} :
    (x, y) ∈ ((alignCentres v).flatMap blockRects).flatMap Rect.cells ↔
      (∃ c ∈ alignCentres v, absDiff x c.1 ≤ 2 ∧ absDiff y c.2 ≤ 2) ∧ x ≠ 6 ∧ y ≠ 6 := by
  rw [List.flatMap_assoc, List.mem_flatMap]
  constructor
  · rintro ⟨c, hc, hp⟩
    obtain ⟨hin, hoff⟩ := (mem_blockCells hlo hhi hc).mp hp
    exact ⟨⟨c, hc, hin⟩, hoff⟩
  · rintro ⟨⟨c, hc, hin⟩, hoff⟩
    exact ⟨c, hc, (mem_blockCells hlo hhi hc).mpr ⟨hin, hoff⟩⟩

/-- The rectangles of `funcRects` hold the function modules of the grid and nothing else (R180). -/
theorem mem_funcCells {x y : Nat} :
    (x, y) ∈ (funcRects v).flatMap Rect.cells ↔ x < side v ∧ y < side v ∧ isFunc v x y = true := by
  rw [isFunc_eq_true, funcRects, List.flatMap_append, List.flatMap_append, List.mem_append, List.mem_append,
    mem_frameCells, mem_alignCells hlo hhi, mem_versionCells]
  constructor
  · rintro ((⟨hx, hy, h6 | h6 | hcorner⟩ | ⟨⟨c, hc, hxy⟩, -⟩) | ⟨hx, hy, hversion⟩)
    · exact ⟨hx, hy, .inl h6⟩
    · exact ⟨hx, hy, .inr (.inl h6)⟩
    · exact ⟨hx, hy, .inr (.inr (.inl hcorner))⟩
    · have hplace := alignBlock_place hlo hhi hc hxy
      exact ⟨by omega, by omega, .inr (.inr (.inr (.inl ⟨c, hc, hxy⟩)))⟩
    · exact ⟨hx, hy, .inr (.inr (.inr (.inr hversion)))⟩
  · rintro ⟨hx, hy, h⟩
    by_cases hframe : x = 6 ∨ y = 6 ∨ inCorner v x y = true
    · exact .inl (.inl ⟨hx, hy, hframe⟩)
    · have hoff : x ≠ 6 ∧ y ≠ 6 := ⟨fun h6 => hframe (.inl h6), fun h6 => hframe (.inr (.inl h6))⟩
      rcases h with h | h | h | hblock | hversion
      · exact absurd h hoff.1
      · exact absurd h hoff.2
      · exact absurd (.inr (.inr h)) hframe
      · exact .inl (.inr ⟨hblock, hoff⟩)
      · exact .inr ⟨hx, hy, hversion⟩

/-- The data modules and the function modules are the square, each module once. -/
theorem zigzag_append_funcCells_perm :
    (zigzag v ++ (funcRects v).flatMap Rect.cells).Perm (List.range (side v) ×ˢ List.range (side v)) := by
  have hfunc : ((funcRects v).flatMap Rect.cells).Nodup :=
    List.nodup_flatMap.mpr ⟨fun r _ => r.cells_nodup, (funcRects_apart hlo hhi).imp Rect.Apart.disjoint⟩
  have hdisj : (zigzag v).Disjoint ((funcRects v).flatMap Rect.cells) := by
    rintro ⟨x, y⟩ hz hf
    obtain ⟨-, -, hdata⟩ := mem_zigzag.mp hz
    obtain ⟨-, -, hfunc⟩ := (mem_funcCells hlo hhi).mp hf
    rw [hdata] at hfunc
    cases hfunc
  refine (List.perm_ext_iff_of_nodup ((zigzag_nodup v).append hfunc hdisj)
    (List.Nodup.product List.nodup_range List.nodup_range)).mpr ?_
  rintro ⟨x, y⟩
  rw [List.mem_append, mem_zigzag, mem_funcCells hlo hhi, List.mem_product, List.mem_range, List.mem_range]
  cases isFunc v x y <;> simp

theorem length_zigzag : (zigzag v).length = rawModules v := by
  have hlen := (zigzag_append_funcCells_perm hlo hhi).length_eq
  have harea := funcRects_area hlo hhi
  simp only [List.length_append, List.length_flatMap, Rect.length_cells, List.length_product,
    List.length_range] at hlen
  omega

end

/-- Settles O32: the zigzag is what the function modules leave of the square, and `RAW_MODULES` is that area. -/
theorem everyCodewordBitHasAModule : Obligations.EveryCodewordBitHasAModule := by
  intro v hlo hhi
  have hlen := length_zigzag hlo hhi
  have hsplit : rawModules v = 8 * rawCw v + remBits v := (Nat.div_add_mod _ _).symm
  exact ⟨hlen, hsplit, fun k hk => ⟨_, List.getElem?_eq_getElem (by omega)⟩⟩

end Sys2Proof.Machine
end

section
/-! GRID_BUILD: the cells of the PLACED grid (44_grid_layout.md R192, R195, R196). -/

namespace Sys2Proof.Machine

@[simp] theorem Cell.withDark_set (b dark func : Bool) : (Cell.set dark func).withDark b = .set b func := rfl

/-- The grid before placement (R195). -/
theorem get_baseGrid {v x y : Nat} (hx : x < side v) (hy : y < side v) :
    (baseGrid v).get x y = if isFunc v x y then .set (fcolour v x y) true else .set false false := by
  rw [baseGrid, Grid.get_tabulate, if_pos ⟨hx, hy⟩]

/-- One write of the placement loop colours its own module, when the codewords have its bit. -/
theorem get_placeBit (cw : List Byte) (g : Grid) (pk : (Nat × Nat) × Nat) (x y : Nat) :
    (placeBit cw g pk).get x y =
      if (x, y) = pk.1 ∧ pk.2 < 8 * cw.length then (g.get x y).withDark (codewordBit cw pk.2) else g.get x y := by
  rw [placeBit]
  by_cases hk : pk.2 < 8 * cw.length
  · simp only [hk, if_true, Grid.get_setDark, and_true, Prod.ext_iff]
  · simp only [hk, if_false, and_false]

/-- A module that the loop does not visit keeps its cell. -/
theorem get_foldl_placeBit_of_not_mem {cw : List Byte} {l : List ((Nat × Nat) × Nat)} {g : Grid} {x y : Nat}
    (h : (x, y) ∉ l.map Prod.fst) : (l.foldl (placeBit cw) g).get x y = g.get x y := by
  induction l generalizing g with
  | nil => rfl
  | cons pk l ih =>
    rw [List.map_cons, List.mem_cons, not_or] at h
    rw [List.foldl_cons, ih h.2, get_placeBit, if_neg fun hp => h.1 hp.1]

/-- A module that the loop visits once, as number `k`, gets codeword bit `k`. -/
theorem get_foldl_placeBit_of_mem {cw : List Byte} {l : List ((Nat × Nat) × Nat)} {g : Grid} {x y k : Nat}
    (hnodup : (l.map Prod.fst).Nodup) (h : ((x, y), k) ∈ l) :
    (l.foldl (placeBit cw) g).get x y =
      if k < 8 * cw.length then (g.get x y).withDark (codewordBit cw k) else g.get x y := by
  induction l generalizing g with
  | nil => cases h
  | cons pk l ih =>
    obtain ⟨hpk, hl⟩ := List.nodup_cons.mp hnodup
    rw [List.foldl_cons]
    rcases List.mem_cons.mp h with rfl | h
    · rw [get_foldl_placeBit_of_not_mem hpk, get_placeBit]
      simp only [true_and]
    · have hne : (x, y) ≠ pk.1 := fun he => hpk (he ▸ List.mem_map_of_mem (f := Prod.fst) h)
      have hkeep : (placeBit cw g pk).get x y = g.get x y := by rw [get_placeBit, if_neg fun hp => hne hp.1]
      rw [ih hl h, hkeep]

/-- A function module keeps the colour of the empty symbol: the zigzag does not visit it. -/
theorem get_placedGrid_func {v x y : Nat} (cw : List Byte) (hx : x < side v) (hy : y < side v)
    (hfunc : isFunc v x y = true) : (placedGrid v cw).get x y = .set (fcolour v x y) true := by
  have hnot : (x, y) ∉ (zigzag v).zipIdx.map Prod.fst := by
    rw [List.zipIdx_map_fst, mem_zigzag, hfunc]
    simp
  rw [placedGrid, get_foldl_placeBit_of_not_mem hnot, get_baseGrid hx hy, if_pos hfunc]

/-- The module `Z[k]` gets codeword bit `k`; past the codewords it stays light (R192, R196). -/
theorem get_placedGrid_data {v x y k : Nat} (cw : List Byte) (hk : (zigzag v)[k]? = some (x, y)) :
    (placedGrid v cw).get x y = .set (decide (k < 8 * cw.length) && codewordBit cw k) false := by
  obtain ⟨hx, hy, hdata⟩ := mem_zigzag.mp (List.mem_of_getElem? hk)
  have hnodup : ((zigzag v).zipIdx.map Prod.fst).Nodup := by
    rw [List.zipIdx_map_fst]
    exact zigzag_nodup v
  rw [placedGrid, get_foldl_placeBit_of_mem hnodup (List.mem_zipIdx_iff_getElem?.mpr hk), get_baseGrid hx hy, hdata]
  by_cases hlt : k < 8 * cw.length <;> simp [hlt]

/-- Settles O33: the loop visits each data module once and no function module, and the grid is drawn in its square
only. -/
theorem placedGridHoldsEveryBit : Obligations.PlacedGridHoldsEveryBit := by
  intro v cw _ _ x y
  refine ⟨get_placedGrid_func cw, fun k => get_placedGrid_data cw, fun hout => ?_⟩
  by_contra hset
  exact hout ((placedGrid_drawn v cw).lt_side hset)

/-- Settles O34: the codewords are valid and of the right number, so the command is its body's completed branch. -/
theorem gridBuildPlacesTheCodewords : Obligations.GridBuildPlacesTheCodewords := by
  intro s _ hcw hlen
  rcases gridBuildBody_cases s with ⟨hno, -⟩ | ⟨-, hne, -⟩ | ⟨-, -, hok⟩
  · rw [hcw] at hno; cases hno
  · exact absurd hlen hne
  · rw [exec_eq_finish, bodyOf, hok, finish_ok]; rfl

end Sys2Proof.Machine
end

section
/-! Masks and format information (45_mask_select.md R220 to R224): what a mask and StampFormat do to each cell. -/

namespace Sys2Proof.Machine

/-! Masks (R221). -/

theorem maskCell_set (m : Fin 8) (x y : Nat) (dark func : Bool) : maskCell m x y (.set dark func)
    = .set (if func = false ∧ maskCond m x y = true then !dark else dark) func := by
  cases func <;> cases h : maskCond m x y <;> simp [maskCell, h]

theorem maskCell_involutive (m : Fin 8) (x y : Nat) : Function.Involutive (maskCell m x y)
  | .unset => rfl
  | .set dark func => by simp only [maskCell, Bool.xor_assoc, Bool.xor_self, Bool.xor_false]

theorem Grid.tabulate_congr {n : Nat} {f g : Nat → Nat → Cell} (h : ∀ x < n, ∀ y < n, f x y = g x y) :
    Grid.tabulate n f = Grid.tabulate n g :=
  List.map_congr_left fun y hy => List.map_congr_left fun x hx => h x (List.mem_range.mp hx) y (List.mem_range.mp hy)

/-- A square grid is the table of its cells. -/
theorem Grid.tabulate_get {S : Nat} {P : Grid} (hrows : P.length = S) (hcols : ∀ row ∈ P, row.length = S) :
    Grid.tabulate S P.get = P := by
  refine List.ext_getElem (by rw [Grid.length_tabulate, hrows]) fun y _ hy => ?_
  have hrow : P[y].length = S := hcols _ (List.getElem_mem hy)
  refine List.ext_getElem (by simp [Grid.tabulate, hrow]) fun x _ hx => ?_
  simp [Grid.tabulate, Grid.get_eq, hy, hx]

/-- Settles O37: a mask acts on each cell alone and undoes itself there, and a square grid is the table of its
cells. -/
theorem maskInvertsDataModulesOnly : Obligations.MaskInvertsDataModulesOnly := by
  intro S P m hrows hcols
  refine ⟨fun x hx y hy dark func hcell => ?_, ?_⟩
  · rw [maskGrid, Grid.get_tabulate, if_pos ⟨hx, hy⟩, hcell, maskCell_set]
  · calc maskGrid S (maskGrid S P m) m
        = Grid.tabulate S P.get := Grid.tabulate_congr fun x hx y hy => by
          rw [maskGrid, Grid.get_tabulate, if_pos ⟨hx, hy⟩, maskCell_involutive]
      _ = P := Grid.tabulate_get hrows hcols

/-! Format information (R223, R224). -/

@[simp] theorem Cell.withDark_withDark (a b : Bool) (c : Cell) : (c.withDark a).withDark b = c.withDark b := by
  cases c <;> rfl

/-- One format bit colours its two modules and no other. -/
theorem get_stampBit (v bits : Nat) (g : Grid) (i x y : Nat) : (stampBit v bits g i).get x y =
    if (x, y) = formatModuleA i ∨ (x, y) = formatModuleB v i then (g.get x y).withDark (bits.testBit i)
    else g.get x y := by
  simp only [stampBit, Grid.get_setDark, Prod.ext_iff]
  by_cases hB : x = (formatModuleB v i).1 ∧ y = (formatModuleB v i).2
  · rw [if_pos hB, if_pos (Or.inr hB)]
    split
    · rw [Cell.withDark_withDark]
    · rfl
  · rw [if_neg hB]
    simp only [or_iff_left hB]

/-- A module of no format bit keeps its cell. -/
theorem get_foldl_stampBit_of_not_mem {v bits : Nat} {l : List Nat} {g : Grid} {x y : Nat}
    (h : ∀ i ∈ l, ¬((x, y) = formatModuleA i ∨ (x, y) = formatModuleB v i)) :
    (l.foldl (stampBit v bits) g).get x y = g.get x y := by
  induction l generalizing g with
  | nil => rfl
  | cons i l ih =>
    obtain ⟨hi, hl⟩ := List.forall_mem_cons.mp h
    rw [List.foldl_cons, ih hl, get_stampBit, if_neg hi]

/-- A module of format bit `k` alone takes that bit. -/
theorem get_foldl_stampBit_of_mem {v bits : Nat} {l : List Nat} {g : Grid} {x y k : Nat} (hk : k ∈ l)
    (hmod : (x, y) = formatModuleA k ∨ (x, y) = formatModuleB v k)
    (honly : ∀ i ∈ l, (x, y) = formatModuleA i ∨ (x, y) = formatModuleB v i → i = k) :
    (l.foldl (stampBit v bits) g).get x y = (g.get x y).withDark (bits.testBit k) := by
  induction l generalizing g with
  | nil => cases hk
  | cons i l ih =>
    obtain ⟨hi, hl⟩ := List.forall_mem_cons.mp honly
    rw [List.foldl_cons]
    by_cases hkl : k ∈ l
    · rw [ih hkl hl, get_stampBit]
      split
      · rw [Cell.withDark_withDark]
      · rfl
    · obtain rfl : k = i := (List.mem_cons.mp hk).resolve_right hkl
      rw [get_foldl_stampBit_of_not_mem fun j hj hjmod => hkl (hl j hj hjmod ▸ hj), get_stampBit, if_pos hmod]

theorem mem_formatArea {v : Nat} {p : Nat × Nat} : p ∈ formatArea v ↔
    (∃ i < 15, p = formatModuleA i ∨ p = formatModuleB v i) ∨ p = darkModule v := by
  simp only [formatArea, List.mem_append, List.mem_map, List.mem_range, List.mem_singleton, and_or_left, exists_or,
    eq_comm (a := p)]

/-- A module of format bit `i` is a module of no other format bit and not the dark module (R185). -/
theorem formatModules_apart {v i : Nat} {p : Nat × Nat} (hi : i < 15)
    (h : p = formatModuleA i ∨ p = formatModuleB v i) :
    p ≠ darkModule v ∧ ∀ j < 15, p = formatModuleA j ∨ p = formatModuleB v j → j = i := by
  obtain ⟨hAB, -, hdark⟩ := List.nodup_append.mp (formatArea_nodup v)
  obtain ⟨hA, hB, hdisj⟩ := List.nodup_append.mp hAB
  have hAmem : ∀ {k}, k < 15 → formatModuleA k ∈ (List.range 15).map formatModuleA := fun hk =>
    List.mem_map_of_mem (List.mem_range.mpr hk)
  have hBmem : ∀ {k}, k < 15 → formatModuleB v k ∈ (List.range 15).map (formatModuleB v) := fun hk =>
    List.mem_map_of_mem (List.mem_range.mpr hk)
  have hAinj : ∀ {j k}, j < 15 → k < 15 → formatModuleA j = formatModuleA k → j = k := fun hj hk =>
    List.inj_on_of_nodup_map hA (List.mem_range.mpr hj) (List.mem_range.mpr hk)
  have hBA : ∀ {j k}, j < 15 → k < 15 → formatModuleA j ≠ formatModuleB v k := fun hj hk =>
    hdisj _ (hAmem hj) _ (hBmem hk)
  rcases h with rfl | rfl
  · refine ⟨hdark _ (List.mem_append_left _ (hAmem hi)) _ (List.mem_singleton.mpr rfl), fun j hj h => ?_⟩
    rcases h with h | h
    · exact (hAinj hi hj h).symm
    · exact absurd h (hBA hi hj)
  · refine ⟨hdark _ (List.mem_append_right _ (hBmem hi)) _ (List.mem_singleton.mpr rfl), fun j hj h => ?_⟩
    rcases h with h | h
    · exact absurd h.symm (hBA hj hi)
    · exact (formatModuleB_injOn hi hj h).symm

/-- StampFormat makes the dark module dark and is the fifteen format bits elsewhere. -/
theorem get_stampFormat (v : Nat) (g : Grid) (e : Ecl) (m : Fin 8) (x y : Nat) : (stampFormat v g e m).get x y =
    if (x, y) = darkModule v then (((List.range 15).foldl (stampBit v (formatBits e m)) g).get x y).withDark true
    else ((List.range 15).foldl (stampBit v (formatBits e m)) g).get x y := by
  simp only [stampFormat, Grid.get_setDark, Prod.ext_iff]

/-- A module of format bit `i` takes that bit of the format word (R223). -/
theorem get_stampFormat_bit {v i : Nat} {p : Nat × Nat} (g : Grid) (e : Ecl) (m : Fin 8) (hi : i < 15)
    (h : p = formatModuleA i ∨ p = formatModuleB v i) :
    (stampFormat v g e m).get p.1 p.2 = (g.get p.1 p.2).withDark ((formatBits e m).testBit i) := by
  obtain ⟨hdark, honly⟩ := formatModules_apart hi h
  rw [get_stampFormat, if_neg hdark,
    get_foldl_stampBit_of_mem (List.mem_range.mpr hi) h fun j hj => honly j (List.mem_range.mp hj)]

/-- Settles O38: the loop writes each format bit to its own two modules, the last write is the dark module's. -/
theorem stampFormatWritesTheFormatArea : Obligations.StampFormatWritesTheFormatArea := by
  intro v g e m _ _
  refine ⟨fun i hi => get_stampFormat_bit g e m hi (.inl rfl), fun i hi => get_stampFormat_bit g e m hi (.inr rfl),
    ?_, fun x y hout => ?_⟩
  · have hnone : ∀ i ∈ List.range 15,
        ¬((8, side v - 8) = formatModuleA i ∨ (8, side v - 8) = formatModuleB v i) := fun i hi h =>
      (formatModules_apart (List.mem_range.mp hi) h).1 rfl
    rw [get_stampFormat, if_pos (by rw [darkModule]), get_foldl_stampBit_of_not_mem hnone]
  · rw [mem_formatArea, not_or] at hout
    obtain ⟨hbits, hdark⟩ := hout
    rw [get_stampFormat, if_neg hdark,
      get_foldl_stampBit_of_not_mem fun i hi h => hbits ⟨i, List.mem_range.mp hi, h⟩]

end Sys2Proof.Machine
end

section
/-! The penalty (45_mask_select.md R225 to R229): the runs of a line, the padded runs of rule (c), the step count of
rule (d), and the bound on the sum. -/

namespace Sys2Proof.Machine

/-! Runs (R225). -/

/-- A module in front of a line starts a new run or lengthens the first one. -/
theorem runs_cons_cases (c : Bool) (cs : List Bool) :
    (∃ n rest, runs cs = (c, n) :: rest ∧ runs (c :: cs) = (c, n + 1) :: rest)
    ∨ ((∀ r ∈ (runs cs).head?, c ≠ r.1) ∧ runs (c :: cs) = (c, 1) :: runs cs) := by
  rw [runs]
  match runs cs with
  | [] => exact .inr ⟨by simp, rfl⟩
  | (d, n) :: rest =>
    by_cases h : c = d
    · subst h
      exact .inl ⟨n, rest, rfl, if_pos rfl⟩
    · exact .inr ⟨by simpa using h, if_neg h⟩

/-- The runs spelled out are the line. -/
theorem flatMap_runs (line : List Bool) : (runs line).flatMap (fun r => List.replicate r.2 r.1) = line := by
  induction line with
  | nil => rfl
  | cons c cs ih =>
    rcases runs_cons_cases c cs with ⟨n, rest, hcs, h⟩ | ⟨-, h⟩
    · rw [hcs] at ih
      rw [h, List.flatMap_cons, List.replicate_succ, List.cons_append]
      exact congrArg (c :: ·) ih
    · rw [h, List.flatMap_cons, ih]; rfl

theorem runs_pos (line : List Bool) : ∀ r ∈ runs line, 0 < r.2 := by
  induction line with
  | nil => simp [runs]
  | cons c cs ih =>
    rcases runs_cons_cases c cs with ⟨n, rest, hcs, h⟩ | ⟨-, h⟩ <;> rw [h, List.forall_mem_cons]
    · rw [hcs, List.forall_mem_cons] at ih
      exact ⟨Nat.succ_pos n, ih.2⟩
    · exact ⟨Nat.one_pos, ih⟩

/-- Neighbouring runs differ in colour. -/
def Alternating (rs : List (Bool × Nat)) : Prop := rs.IsChain fun a b => a.1 ≠ b.1

theorem runs_alternating (line : List Bool) : Alternating (runs line) := by
  induction line with
  | nil => exact List.isChain_nil
  | cons c cs ih =>
    rw [Alternating] at ih ⊢
    rcases runs_cons_cases c cs with ⟨n, rest, hcs, h⟩ | ⟨hne, h⟩ <;> rw [h, List.isChain_cons]
    · rwa [hcs, List.isChain_cons] at ih
    · exact ⟨hne, ih⟩

theorem sum_runs (line : List Bool) : ((runs line).map Prod.snd).sum = line.length := by
  conv_rhs => rw [← flatMap_runs line, List.length_flatMap]
  simp

/-- A line has at most as many runs as modules. -/
theorem length_runs_le (line : List Bool) : (runs line).length ≤ line.length := by
  induction line with
  | nil => exact Nat.le_refl 0
  | cons c cs ih =>
    rcases runs_cons_cases c cs with ⟨n, rest, hcs, h⟩ | ⟨-, h⟩
    · rw [hcs] at ih
      rw [h]
      exact Nat.le_succ_of_le ih
    · rw [h]
      exact Nat.succ_le_succ ih

theorem runs_replicate_succ (n : Nat) (c : Bool) : runs (List.replicate (n + 1) c) = [(c, n + 1)] := by
  induction n with
  | zero => rfl
  | succ n ih => rw [List.replicate_succ, runs, ih]; exact if_pos rfl

theorem lineRunScore_replicate (n : Nat) (c : Bool) :
    lineRunScore (List.replicate n c) = if n < 5 then 0 else 3 + (n - 5) := by
  cases n with
  | zero => rfl
  | succ n =>
    rw [lineRunScore, runs_replicate_succ, List.map_singleton, List.sum_singleton, runScore, Config.n1]
    split_ifs <;> omega

/-- Settles O42, each part by induction on the line. -/
theorem runsAreMaximal : Obligations.RunsAreMaximal := by
  refine ⟨fun line => ⟨flatMap_runs line, runs_pos line, fun k a b ha hb => ?_⟩, lineRunScore_replicate⟩
  obtain ⟨hk, rfl⟩ := List.getElem?_eq_some_iff.mp ha
  obtain ⟨hk', rfl⟩ := List.getElem?_eq_some_iff.mp hb
  exact List.isChain_iff_getElem.mp (runs_alternating line) k hk'

/-! Padded runs (R227). -/

/-- Padding joins a light first run or starts a new one in front of a dark one. -/
theorem padLight_cases (S : Nat) (rs : List (Bool × Nat)) :
    (∃ n rest, rs = (false, n) :: rest ∧ padLight S rs = (false, n + S) :: rest)
    ∨ ((∀ r ∈ rs.head?, r.1 = true) ∧ padLight S rs = (false, S) :: rs) := by
  match rs with
  | [] => exact .inr ⟨by simp, rfl⟩
  | (false, n) :: rest => exact .inl ⟨n, rest, rfl, rfl⟩
  | (true, n) :: rest => exact .inr ⟨by simp, rfl⟩

/-- A light run of at least `S` modules: what stands at both ends of a padded run list. -/
def LightFrom (S : Nat) (r : Bool × Nat) : Prop := r.1 = false ∧ S ≤ r.2

theorem padLight_head (S : Nat) (rs : List (Bool × Nat)) : ∃ r ∈ (padLight S rs).head?, LightFrom S r := by
  rcases padLight_cases S rs with ⟨n, rest, -, h⟩ | ⟨-, h⟩ <;> rw [h]
  · exact ⟨_, rfl, rfl, Nat.le_add_left S n⟩
  · exact ⟨_, rfl, rfl, Nat.le_refl S⟩

/-- Padding in front keeps a light last run, which it can only lengthen. -/
theorem padLight_getLast {S : Nat} {rs : List (Bool × Nat)} (hlast : ∃ r ∈ rs.getLast?, LightFrom S r) :
    ∃ r ∈ (padLight S rs).getLast?, LightFrom S r := by
  obtain ⟨r, hr, hlight⟩ := hlast
  rcases padLight_cases S rs with ⟨n, rest, rfl, h⟩ | ⟨-, h⟩ <;> rw [h]
  · cases rest with
    | nil => exact ⟨_, rfl, rfl, Nat.le_add_left S n⟩
    | cons a rest => exact ⟨r, by rwa [List.getLast?_cons_cons] at hr ⊢, hlight⟩
  · cases rs with
    | nil => cases hr
    | cons a rest => exact ⟨r, by rwa [List.getLast?_cons_cons], hlight⟩

theorem padLight_alternating {S : Nat} {rs : List (Bool × Nat)} (h : Alternating rs) :
    Alternating (padLight S rs) := by
  rw [Alternating] at h ⊢
  rcases padLight_cases S rs with ⟨n, rest, rfl, hpad⟩ | ⟨hdark, hpad⟩ <;> rw [hpad, List.isChain_cons]
  · rwa [List.isChain_cons] at h
  · exact ⟨fun r hr => by rw [hdark r hr]; exact Bool.false_ne_true, h⟩

theorem sum_padLight (S : Nat) (rs : List (Bool × Nat)) :
    ((padLight S rs).map Prod.snd).sum = (rs.map Prod.snd).sum + S := by
  rcases padLight_cases S rs with ⟨n, rest, rfl, h⟩ | ⟨-, h⟩ <;> rw [h] <;>
    simp only [List.map_cons, List.sum_cons] <;> omega

theorem length_padLight_le (S : Nat) (rs : List (Bool × Nat)) : (padLight S rs).length ≤ rs.length + 1 := by
  rcases padLight_cases S rs with ⟨n, rest, rfl, h⟩ | ⟨-, h⟩ <;> rw [h] <;> simp

theorem Alternating.reverse {rs : List (Bool × Nat)} (h : Alternating rs) : Alternating rs.reverse :=
  List.isChain_reverse.mpr (h.imp fun _ _ => Ne.symm)

theorem paddedRunList_alternating (S : Nat) (line : List Bool) : Alternating (paddedRunList S line) :=
  (padLight_alternating (padLight_alternating (runs_alternating line)).reverse).reverse

theorem paddedRunList_head (S : Nat) (line : List Bool) : ∃ r ∈ (paddedRunList S line).head?, LightFrom S r := by
  rw [paddedRunList, List.head?_reverse]
  exact padLight_getLast (by rw [List.getLast?_reverse]; exact padLight_head S _)

theorem paddedRunList_getLast (S : Nat) (line : List Bool) :
    ∃ r ∈ (paddedRunList S line).getLast?, LightFrom S r := by
  rw [paddedRunList, List.getLast?_reverse]
  exact padLight_head S _

theorem sum_paddedRuns (S : Nat) (line : List Bool) : (paddedRuns S line).sum = line.length + 2 * S := by
  rw [paddedRuns, paddedRunList, List.map_reverse, List.sum_reverse, sum_padLight, List.map_reverse, List.sum_reverse,
    sum_padLight, sum_runs]
  omega

theorem length_paddedRuns_le (S : Nat) (line : List Bool) : (paddedRuns S line).length ≤ line.length + 2 := by
  have hfront := length_padLight_le S (runs line)
  have hback := length_padLight_le S (padLight S (runs line)).reverse
  have hruns := length_runs_le line
  rw [List.length_reverse] at hback
  rw [paddedRuns, paddedRunList, List.length_map, List.length_reverse]
  omega

/-- In an alternating list every even index has the first run's colour and every odd index the other one. -/
theorem Alternating.colour {rs : List (Bool × Nat)} (h : Alternating rs) {c : Bool}
    (hhead : ∀ r ∈ rs.head?, r.1 = c) {i : Nat} {r : Bool × Nat} (hr : rs[i]? = some r) :
    r.1 = (c ^^ decide (i % 2 = 1)) := by
  induction i generalizing rs c with
  | zero =>
    rw [← List.head?_eq_getElem?] at hr
    rw [hhead r hr]
    exact (Bool.xor_false c).symm
  | succ i ih =>
    match rs, hr with
    | a :: rest, hr =>
      obtain ⟨hne, hrest⟩ := List.isChain_cons.mp h
      have hnext : ∀ b ∈ rest.head?, b.1 = !c := fun b hb => by
        rw [← hhead a rfl]
        exact Bool.eq_not.mpr (hne b hb).symm
      rw [ih hrest hnext hr]
      rcases Nat.mod_two_eq_zero_or_one i with hi | hi <;> simp [hi, Nat.succ_mod_two_eq_one_iff]

/-- Settles O43: the padded list alternates between light ends, so that its last index is even. -/
theorem paddedRunsBeginAndEndLight : Obligations.PaddedRunsBeginAndEndLight := by
  intro S line
  obtain ⟨first, hfirst, hfirstLight, hfirstS⟩ := paddedRunList_head S line
  obtain ⟨last, hlast, hlastLight, hlastS⟩ := paddedRunList_getLast S line
  rw [Option.mem_def] at hfirst hlast
  have hcolour : ∀ i r, (paddedRunList S line)[i]? = some r → r.1 = decide (i % 2 = 1) := fun i r hr => by
    have h := (paddedRunList_alternating S line).colour (c := false) (by simpa [hfirst] using hfirstLight) hr
    rwa [Bool.false_xor] at h
  have hodd : (paddedRuns S line).length % 2 = 1 := by
    have hne : 0 < (paddedRunList S line).length := List.length_pos_of_mem (List.mem_of_mem_head? hfirst)
    have heven := hcolour _ last (List.getLast?_eq_getElem? ▸ hlast)
    rw [hlastLight, eq_comm, decide_eq_false_iff_not] at heven
    rw [paddedRuns, List.length_map]
    omega
  refine ⟨rfl, hcolour, ?_, ?_, hodd, sum_paddedRuns S line, ?_, ?_⟩
  · rw [hfirst, Option.map_some, hfirstLight]
  · rw [hlast, Option.map_some, hlastLight]
  · rw [paddedRuns, List.headD_eq_head?_getD, List.head?_map, hfirst]
    exact hfirstS
  · rw [paddedRuns, List.getLastD_eq_getLast?, List.getLast?_map, hlast]
    exact hlastS

/-! The dark ratio (R228). -/

/-- Settles O44: the deviation is positive, as the total is odd, and at most ten totals; the rest is division. -/
theorem darkRatioCountsWholeSteps : Obligations.DarkRatioCountsWholeSteps := by
  intro dark total hodd hle
  rw [darkRatioSteps]
  have hpos : 0 < ((20 * dark : Int) - (10 * total : Int)).natAbs := by omega
  have hmax : ((20 * dark : Int) - (10 * total : Int)).natAbs ≤ 10 * total := by omega
  generalize ((20 * dark : Int) - (10 * total : Int)).natAbs = dev at hpos hmax ⊢
  have hdiv := Nat.div_add_mod (dev + total - 1) total
  have hmod := Nat.mod_lt (dev + total - 1) (show total > 0 by omega)
  obtain ⟨k, hk⟩ : ∃ k, (dev + total - 1) / total = k + 1 :=
    Nat.exists_eq_succ_of_ne_zero (Nat.div_pos (by omega) (by omega)).ne'
  rw [hk, Nat.mul_succ] at hdiv
  rw [hk, Nat.add_sub_cancel, Nat.mul_succ]
  have hlow : total * k < dev := by omega
  refine ⟨hlow, by omega, ?_⟩
  have h10 : total * k < total * 10 := by omega
  exact Nat.le_of_lt_succ (Nat.lt_of_mul_lt_mul_left h10)

/-! The bound (R229). -/

/-- A sum over a list is at most the list's length times a bound on the terms. -/
theorem sum_map_le {α : Type} {f : α → Nat} {l : List α} {b : Nat} (h : ∀ a ∈ l, f a ≤ b) :
    (l.map f).sum ≤ l.length * b := by
  have hsum := List.sum_le_card_nsmul (l.map f) b (List.forall_mem_map.mpr h)
  rwa [List.length_map, smul_eq_mul] at hsum

@[simp] theorem length_gridLines (d : Nat → Nat → Bool) (S : Nat) : (gridLines d S).length = 2 * S := by
  simp [gridLines, two_mul]

@[simp] theorem length_rowLine (d : Nat → Nat → Bool) (S y : Nat) : (rowLine d S y).length = S := by
  simp [rowLine]

theorem length_of_mem_gridLines {d : Nat → Nat → Bool} {S : Nat} {line : List Bool} (h : line ∈ gridLines d S) :
    line.length = S := by
  rcases List.mem_append.mp h with h | h <;> obtain ⟨k, -, rfl⟩ := List.mem_map.mp h
  · exact length_rowLine d S k
  · simp [colLine]

/-- A run scores at most its length (R225), so a line at most its length. -/
theorem lineRunScore_le (line : List Bool) : lineRunScore line ≤ line.length := by
  rw [lineRunScore, ← sum_runs]
  refine List.sum_le_sum fun r _ => ?_
  rw [runScore, Config.n1]
  split <;> omega

/-- An index adds at most one count for each side (R227). -/
theorem finderLikeAt_le (r : List Nat) (i : Nat) : finderLikeAt r i ≤ 2 := by
  simp only [finderLikeAt]
  split_ifs <;> decide

theorem lineFinderCount_le (S : Nat) (line : List Bool) : lineFinderCount S line ≤ (line.length + 2) * 2 := by
  have hterm : ∀ i ∈ List.range (paddedRuns S line).length,
      (if i % 2 = 0 ∧ 6 ≤ i then finderLikeAt (paddedRuns S line) i else 0) ≤ 2 := fun i _ => by
    split
    · exact finderLikeAt_le _ i
    · exact Nat.zero_le 2
  refine (sum_map_le hterm).trans ?_
  rw [List.length_range]
  exact Nat.mul_le_mul_right 2 (length_paddedRuns_le S line)

section
variable (d : Nat → Nat → Bool) (S : Nat)

theorem penaltyRuns_le : penaltyRuns d S ≤ 2 * S * S := by
  rw [penaltyRuns, ← length_gridLines d S]
  exact sum_map_le fun line h => (lineRunScore_le line).trans_eq (length_of_mem_gridLines h)

theorem penaltyWindows_le : penaltyWindows d S ≤ 3 * ((S - 1) * (S - 1)) := by
  refine Nat.mul_le_mul_left 3 ((sum_map_le (b := S - 1) fun y _ => ?_).trans_eq (by rw [List.length_range]))
  exact List.countP_le_length.trans_eq List.length_range

theorem penaltyFinders_le : penaltyFinders d S ≤ 40 * (2 * S * ((S + 2) * 2)) := by
  refine Nat.mul_le_mul_left 40 ?_
  rw [finderCount, ← length_gridLines d S]
  exact sum_map_le fun line h => (lineFinderCount_le S line).trans_eq (by rw [length_of_mem_gridLines h])

theorem darkCount_le : darkCount d S ≤ S ^ 2 := by
  rw [sq]
  refine (sum_map_le (b := S) fun y _ => ?_).trans_eq (by rw [List.length_range])
  exact List.countP_le_length.trans_eq (length_rowLine d S y)

theorem penaltyRatio_le (hS : S % 2 = 1) : penaltyRatio d S ≤ 10 * 9 := by
  have hodd : S ^ 2 % 2 = 1 := by rw [Nat.pow_mod, hS]
  obtain ⟨-, -, hsteps⟩ := darkRatioCountsWholeSteps _ _ hodd (darkCount_le d S)
  exact Nat.mul_le_mul_left 10 hsteps

end

/-- The penalty of any grid of a legal version, by the number of its lines, windows and runs (R229). -/
theorem gridPenalty_lt {v : Nat} (g : Grid) (hv : v ≤ Config.vMax) : gridPenalty g (side v) < 2 ^ 24 := by
  have hside : side v ≤ 177 := side_le_sizeMax hv
  have hodd : side v % 2 = 1 := by rw [side]; omega
  have hlines : 2 * side v * side v ≤ 2 * 177 * 177 := by gcongr
  have hwindows : (side v - 1) * (side v - 1) ≤ 176 * 176 := Nat.mul_le_mul (by omega) (by omega)
  have hfinders : 2 * side v * ((side v + 2) * 2) ≤ 2 * 177 * ((177 + 2) * 2) := by gcongr
  have ha := penaltyRuns_le g.darkAt (side v)
  have hb := penaltyWindows_le g.darkAt (side v)
  have hc := penaltyFinders_le g.darkAt (side v)
  have hd := penaltyRatio_le g.darkAt (side v) hodd
  rw [gridPenalty, penaltyOf]
  omega

theorem toNat_penaltyWord {n : Nat} (h : n < 2 ^ 24) : (BitVec.ofNat 32 n).toNat = n := by
  rw [BitVec.toNat_ofNat]
  omega

/-- The 32-bit register holds a penalty below 2^24 whole, so it is not the value for not evaluated (R229). -/
theorem penaltyWord_ne_noPenalty {n : Nat} (h : n < 2 ^ 24) : BitVec.ofNat 32 n ≠ noPenalty := fun he => by
  have hn := (toNat_penaltyWord h).symm.trans (congrArg BitVec.toNat he)
  rw [show noPenalty.toNat = 2 ^ 32 - 1 from rfl] at hn
  omega

/-- Settles O45 by the bounds on the four rules. -/
theorem penaltyIsBelowTwoToThe24 : Obligations.PenaltyIsBelowTwoToThe24 := fun _ g _ hhi =>
  have hlt := gridPenalty_lt g hhi
  ⟨rfl, hlt, toNat_penaltyWord hlt, penaltyWord_ne_noPenalty hlt⟩

end Sys2Proof.Machine
end

section
/-! The selection and MASK_SELECT (45_mask_select.md R230 to R232). -/

namespace Sys2Proof.Machine

/-! The selection (R230, R231). -/

@[simp] theorem candidate_mask (v : Nat) (e : Ecl) (P : Grid) (m : Fin 8) : (candidate v e P m).mask = m := rfl

theorem candidate_score (v : Nat) (e : Ecl) (P : Grid) (m : Fin 8) :
    (candidate v e P m).score = gridPenalty (candidate v e P m).grid (side v) := by rw [candidate]

theorem candidate_score_lt {v : Nat} (e : Ecl) (P : Grid) (m : Fin 8) (hv : v ≤ Config.vMax) :
    (candidate v e P m).score < 2 ^ 24 := by
  rw [candidate_score]
  exact gridPenalty_lt _ hv

/-- `b` is to be kept over `c`: its score is lower, or equal with a mask that is not higher. -/
def Candidate.Beats (b c : Candidate) : Prop := b.score ≤ c.score ∧ (c.score = b.score → b.mask ≤ c.mask)

theorem Candidate.Beats.refl (b : Candidate) : b.Beats b := ⟨le_rfl, fun _ => le_rfl⟩

theorem Candidate.Beats.of_score_lt {b c : Candidate} (h : b.score < c.score) : b.Beats c :=
  ⟨h.le, fun he => absurd he h.ne'⟩

theorem Candidate.Beats.trans {a b c : Candidate} (hab : a.Beats b) (hbc : b.Beats c) : a.Beats c := by
  obtain ⟨hab, habMask⟩ := hab
  obtain ⟨hbc, hbcMask⟩ := hbc
  exact ⟨hab.trans hbc, fun he => (habMask (by omega)).trans (hbcMask (by omega))⟩

/-- Over masks in ascending order, replacing the best by strictly lower scores only keeps a candidate that beats all
(R230). -/
theorem pickBest_beats {best : Candidate} {cs : List Candidate}
    (hasc : (best :: cs).Pairwise fun b c => b.mask ≤ c.mask) : ∀ c ∈ best :: cs, (pickBest best cs).Beats c := by
  induction cs generalizing best with
  | nil => exact fun c hc => List.mem_singleton.mp hc ▸ Candidate.Beats.refl _
  | cons c rest ih =>
    obtain ⟨hbest, hrest⟩ := List.pairwise_cons.mp hasc
    obtain ⟨hbc, hbestRest⟩ := List.forall_mem_cons.mp hbest
    rw [pickBest]
    by_cases hlt : c.score < best.score
    · rw [if_pos hlt]
      have hkeep := ih hrest
      exact List.forall_mem_cons.mpr ⟨(hkeep c List.mem_cons_self).trans (.of_score_lt hlt), hkeep⟩
    · rw [if_neg hlt]
      obtain ⟨hkeep, hkeepRest⟩ := List.forall_mem_cons.mp
        (ih (List.pairwise_cons.mpr ⟨hbestRest, (List.pairwise_cons.mp hrest).2⟩))
      have hdrop : best.Beats c := ⟨not_lt.mp hlt, fun _ => hbc⟩
      exact List.forall_mem_cons.mpr ⟨hkeep, List.forall_mem_cons.mpr ⟨hkeep.trans hdrop, hkeepRest⟩⟩

/-- The candidates come in ascending order (R231). -/
theorem maskCandidates_ascending (req : MaskReq) : (maskCandidates req).Pairwise (· ≤ ·) := by
  cases req with
  | auto => decide
  | forced m => exact List.pairwise_singleton _ m

theorem selectMask_beats (v : Nat) (e : Ecl) (P : Grid) (req : MaskReq) :
    ∀ m ∈ maskCandidates req, (selectMask v e P req).Beats (candidate v e P m) := by
  have hasc : ((maskCandidates req).map (candidate v e P)).Pairwise fun b c => b.mask ≤ c.mask :=
    List.pairwise_map.mpr (maskCandidates_ascending req)
  exact fun m hm => pickBest_beats hasc _ (List.mem_map_of_mem hm)

/-- The selected candidate is that of its own mask, which is one of the candidates' masks. -/
theorem selectMask_mask (v : Nat) (e : Ecl) (P : Grid) (req : MaskReq) :
    (selectMask v e P req).mask ∈ maskCandidates req
    ∧ selectMask v e P req = candidate v e P (selectMask v e P req).mask := by
  obtain ⟨m, hm, h⟩ := selectMask_eq_candidate v e P req
  rw [h, candidate_mask]
  exact ⟨hm, rfl⟩

/-- Settles O39: the selection keeps a candidate that beats all. -/
theorem selectionKeepsTheLowestScore : Obligations.SelectionKeepsTheLowestScore := by
  refine ⟨rfl, fun _ => rfl, fun v e P req => ?_⟩
  obtain ⟨hmem, hbest⟩ := selectMask_mask v e P req
  exact ⟨fun m => ⟨candidate_grid v e P m, candidate_score v e P m⟩, hmem, hbest, selectMask_beats v e P req⟩

/-! MASK_SELECT (R232). -/

theorem getElem_pensOf (v : Nat) (e : Ecl) (P : Grid) (req : MaskReq) (m : Fin 8) :
    (pensOf v e P req)[m] = penOf v e P req m := by
  rw [pensOf]
  generalize penOf v e P req = pen
  fin_cases m <;> rfl

theorem penOf_of_mem {v : Nat} {e : Ecl} {P : Grid} {req : MaskReq} {m : Fin 8} (h : m ∈ maskCandidates req) :
    penOf v e P req m = BitVec.ofNat 32 (candidate v e P m).score := if_pos (List.contains_iff_mem.mpr h)

theorem penOf_of_not_mem {v : Nat} {e : Ecl} {P : Grid} {req : MaskReq} {m : Fin 8} (h : m ∉ maskCandidates req) :
    penOf v e P req m = noPenalty := if_neg (mt List.contains_iff_mem.mp h)

/-- The state MASK_SELECT leaves of a PLACED grid. -/
def maskSelected (s : State) : State :=
  { s with
    grid := (selectMask s.v s.ecl s.grid s.maskReq).grid, gridState := .final, err := .ok
    selMask := BitVec.ofNat 4 (selectMask s.v s.ecl s.grid s.maskReq).mask.val
    penalty := BitVec.ofNat 32 (selectMask s.v s.ecl s.grid s.maskReq).score
    pens := pensOf s.v s.ecl s.grid s.maskReq }

theorem exec_maskSelect_of_placed {s : State} (h : s.gridState = .placed) :
    exec .maskSelect s = .next (maskSelected s) := by
  rcases maskSelectBody_cases s with ⟨hne, -⟩ | ⟨-, hok⟩
  · exact absurd h hne
  · rw [exec_eq_finish, bodyOf, hok, finish_ok]; rfl

/-- SEL_MASK holds the selected mask. -/
theorem maskSelected_selMask (s : State) :
    (maskSelected s).selMask.toNat = (selectMask s.v s.ecl s.grid s.maskReq).mask.val := by
  rw [maskSelected, BitVec.toNat_ofNat]
  omega

theorem maskSelected_pens (s : State) (m : Fin 8) :
    (maskSelected s).pens[m] = penOf s.v s.ecl s.grid s.maskReq m := getElem_pensOf s.v s.ecl s.grid s.maskReq m

/-- PENALTY is the PEN of the selected mask. -/
theorem maskSelected_penalty (s : State) : (maskSelected s).penalty
    = penOf s.v s.ecl s.grid s.maskReq (selectMask s.v s.ecl s.grid s.maskReq).mask := by
  obtain ⟨hmem, hbest⟩ := selectMask_mask s.v s.ecl s.grid s.maskReq
  rw [maskSelected, penOf_of_mem hmem, ← hbest]

/-- Settles O40. -/
theorem maskSelectStoresTheBest : Obligations.MaskSelectStoresTheBest := by
  intro s _ hplaced
  refine ⟨maskSelected s, exec_maskSelect_of_placed hplaced, rfl, fun m => ?_⟩
  rw [maskSelected_pens]
  split
  · next hm => exact penOf_of_mem hm
  · next hm => exact penOf_of_not_mem hm

theorem mem_maskCandidates_auto (m : Fin 8) : m ∈ maskCandidates .auto := by revert m; decide

/-- Settles O41: a register holds each penalty whole, so the order of the scores is that of the registers. -/
theorem automaticMaskIsOptimal : Obligations.AutomaticMaskIsOptimal := by
  refine ⟨fun s _ hplaced hauto _ hhi => ?_, fun s m _ hplaced hforced _ _ => ?_⟩
  · refine ⟨maskSelected s, (selectMask s.v s.ecl s.grid s.maskReq).mask, exec_maskSelect_of_placed hplaced,
      maskSelected_selMask s, (maskSelected_pens s _).trans (maskSelected_penalty s).symm, fun k => ?_⟩
    have hk : k ∈ maskCandidates s.maskReq := hauto ▸ mem_maskCandidates_auto k
    have hscore : (candidate s.v s.ecl s.grid k).score < 2 ^ 24 := candidate_score_lt s.ecl s.grid k hhi
    obtain ⟨hbeats, -⟩ := selectMask_beats s.v s.ecl s.grid s.maskReq k hk
    rw [maskSelected_pens, penOf_of_mem hk, toNat_penaltyWord hscore, maskSelected,
      toNat_penaltyWord (hbeats.trans_lt hscore)]
    exact ⟨hbeats, penaltyWord_ne_noPenalty hscore⟩
  · have hcand : maskCandidates s.maskReq = [m] := by rw [hforced]; rfl
    have hsel : (selectMask s.v s.ecl s.grid s.maskReq).mask = m :=
      List.mem_singleton.mp (hcand ▸ (selectMask_mask s.v s.ecl s.grid s.maskReq).1)
    refine ⟨maskSelected s, exec_maskSelect_of_placed hplaced, ?_, ?_, fun k hk => ?_⟩
    · rw [maskSelected_selMask, hsel]
    · rw [maskSelected_pens, maskSelected_penalty, hsel]
    · rw [maskSelected_pens]
      exact penOf_of_not_mem (by rwa [hcand, List.mem_singleton])

end Sys2Proof.Machine
end

section
/-! Output and the composite encode (46_output.md R260 to R262). -/

namespace Sys2Proof.Machine

/-! The output image (R260). -/

/-- An image byte has its modules as binary digits, the last the most significant. -/
theorem imageByte_eq_msbNumber (S : Nat) (g : Grid) (j : Nat) :
    imageByte S g j = BitVec.ofNat 8 (msbNumber 8 fun i => moduleBit S g (8 * j + (7 - i))) := by
  rw [imageByte, msbNumber]
  congr 1
  simp only [List.range, List.range.loop, List.map_cons, List.map_nil, List.sum_cons, List.sum_nil, Nat.reduceSub]
  omega

theorem getLsbD_imageByte (S : Nat) (g : Grid) (j : Nat) {b : Nat} (hb : b < 8) :
    (imageByte S g j).getLsbD b = moduleBit S g (8 * j + b) := by
  have hdigit := testBit_msbNumber (show 7 - b < 8 by omega) fun i => moduleBit S g (8 * j + (7 - i))
  rw [show 8 - 1 - (7 - b) = b by omega] at hdigit
  rw [imageByte_eq_msbNumber, BitVec.getLsbD_ofNat, decide_eq_true hb, Bool.true_and, hdigit]

theorem moduleBit_of_lt {S k : Nat} (g : Grid) (h : k < S ^ 2) : moduleBit S g k = g.darkAt (k % S) (k / S) := by
  rw [moduleBit, decide_eq_true h, Bool.true_and]

theorem moduleBit_of_le {S k : Nat} (g : Grid) (h : S ^ 2 ≤ k) : moduleBit S g k = false := by
  rw [moduleBit, decide_eq_false (Nat.not_lt.mpr h), Bool.false_and]

/-- Bit `b` of byte `1 + j` is module `8j + b`, past the end of the image too, where there is neither. -/
theorem getLsbD_outImage (v : Nat) (g : Grid) (j : Nat) {b : Nat} (hb : b < 8) :
    ((outImage v g).getD (1 + j) 0).getLsbD b = moduleBit (side v) g (8 * j + b) := by
  rw [Nat.add_comm, outImage, List.getD_cons_succ]
  by_cases hj : j < outLen v - 1
  · rw [List.getD_eq_getElem _ _ (by simpa using hj), List.getElem_map, List.getElem_range, getLsbD_imageByte _ _ _ hb]
  · have hpast : side v ^ 2 ≤ 8 * j + b := by
      rw [outLen] at hj
      omega
    rw [List.getD_eq_default _ _ (by simpa using hj), moduleBit_of_le g hpast]
    simp

/-- The header byte holds the side of a legal version whole. -/
theorem outImage_header {v : Nat} (g : Grid) (h : v ≤ Config.vMax) : ((outImage v g).getD 0 0).toNat = side v := by
  have hside : side v ≤ 177 := side_le_sizeMax h
  rw [outImage, List.getD_cons_zero, BitVec.toNat_ofNat]
  omega

/-- Settles O46: the bits of a byte are the digits of the number it is defined as. -/
theorem outputImageIsPackedRowMajor : Obligations.OutputImageIsPackedRowMajor := by
  refine fun v g _ hhi => ⟨length_outImage v g, outImage_header g hhi, fun k hk => ?_, fun j b hb hpad => ?_⟩
  · rw [getLsbD_outImage v g _ (Nat.mod_lt k (by decide)), Nat.div_add_mod, moduleBit_of_lt g hk]
  · rw [getLsbD_outImage v g j hb, moduleBit_of_le g hpad]

/-! How a command that completes shows at `exec`. -/

/-- A command completes with ERR = OK exactly when its body does: a raised error is never OK (60_exceptions.md R302,
R303). -/
theorem exec_ok_iff {i : Instr} {s t : State} : exec i s = .next t ∧ t.err = .ok ↔ bodyOf i s = .ok t := by
  constructor
  · rintro ⟨h, hok⟩
    rcases exec_next h with hbody | ⟨e, he, rfl⟩
    · exact hbody
    · exact absurd hok (bodyOf_raises i s e he).1
  · intro h
    exact ⟨by rw [exec_eq_finish, h, finish_ok], (bodyOf_completes h).err⟩

/-! OUT_WRITE (R261). -/

/-- With a FINAL grid and a large enough buffer OUT_WRITE completes with the image in OUT. -/
theorem outWriteBody_of_final {s : State} (hfinal : s.gridState = .final) (hcap : outLen s.v ≤ s.outCap) :
    ∃ m, outWriteBody s = .ok (complete { s with out := m })
      ∧ (Memory.wf s.out → Memory.wf m)
      ∧ ∀ i, Memory.read m i = if i < outLen s.v then (outImage s.v s.grid)[i]? else Memory.read s.out i := by
  rcases outWriteBody_cases s with ⟨hne, -⟩ | ⟨-, hsmall, -⟩ | ⟨-, -, m, hok, hwf, -, hread⟩
  · exact absurd hfinal hne
  · omega
  · exact ⟨m, hok, hwf, hread⟩

/-- Settles O47. -/
theorem outWriteWritesTheImage : Obligations.OutWriteWritesTheImage := by
  intro s _ hfinal hcap
  obtain ⟨m, hok, -, hread⟩ := outWriteBody_of_final hfinal hcap
  exact ⟨_, (exec_ok_iff (i := .outWrite).mpr hok).1, rfl, fun a ha => (hread a).trans (if_pos ha),
    fun a ha => (hread a).trans (if_neg (Nat.not_lt.mpr ha))⟩

/-- Bytes that the buffer already holds are written without a change (R261). -/
theorem writeOutBytes_eq_self {s : State} (hwf : Memory.wf s.out) {bytes : List Byte} {a : Nat}
    (hfit : a + bytes.length ≤ s.outCap) (hheld : ∀ k < bytes.length, Memory.read s.out (a + k) = bytes[k]?) :
    writeOutBytes s a bytes = .ok s := by
  induction bytes generalizing a with
  | nil => rfl
  | cons v rest ih =>
    rw [List.length_cons] at hfit hheld
    have hsame : Memory.insert s.out a v = s.out := Memory.insert_eq_self hwf (hheld 0 (Nat.succ_pos _))
    have hrest : writeOutBytes s (a + 1) rest = .ok s := ih (by omega) fun k hk => by
      rw [Nat.add_assoc, Nat.add_comm 1, hheld (k + 1) (by omega), List.getElem?_cons_succ]
    rw [writeOutBytes, writeOut_ok (by omega), hsame]
    exact hrest

/-- OUT_WRITE over its own image changes no byte (R261). -/
theorem outWriteBody_eq_self {s : State} (hfinal : s.gridState = .final) (hcap : outLen s.v ≤ s.outCap)
    (hwf : Memory.wf s.out) (hheld : ∀ i < outLen s.v, Memory.read s.out i = (outImage s.v s.grid)[i]?) :
    outWriteBody s = .ok (complete s) := by
  have hsame : writeOutBytes s 0 (outImage s.v s.grid) = .ok s :=
    writeOutBytes_eq_self hwf (by rwa [length_outImage, Nat.zero_add]) fun k hk => by
      rw [Nat.zero_add, hheld k (by rwa [length_outImage] at hk)]
  rw [outWriteBody, if_neg (not_not.mpr hfinal), if_neg (Nat.not_lt.mpr hcap), hsame]
  rfl

/-! ENCODE (R262). -/

/-- The state RS_ENCODE, GRID_BUILD and MASK_SELECT leave of a BitBuffer of the right length. -/
def symbolSelected (s : State) : State :=
  let cw := finalCodewords s.v s.ecl s.bb
  let best := selectMask s.v s.ecl (placedGrid s.v cw) s.maskReq
  { s with
    err := .ok, cw := cw, cwValid := true, gridState := .final, grid := best.grid
    selMask := BitVec.ofNat 4 best.mask.val, penalty := BitVec.ofNat 32 best.score
    pens := pensOf s.v s.ecl (placedGrid s.v cw) s.maskReq }

/-- After three completed stages ENCODE comes down to OUT_WRITE. -/
theorem encodeBody_of_stages {s a b c : State} (ha : rsEncodeBody s = .ok a) (hb : gridBuildBody a = .ok b)
    (hc : maskSelectBody b = .ok c) : encodeBody s = outWriteBody c := by
  rw [encodeBody, ha, Except.bind, hb, Except.bind, hc, Except.bind]

/-- ENCODE stops where a length is wrong; otherwise it comes down to OUT_WRITE on the selected symbol, because each
stage leaves what the next one needs. -/
theorem encodeBody_cases (s : State) :
    ((s.bb.length = 8 * dataCw s.v s.ecl → (finalCodewords s.v s.ecl s.bb).length ≠ rawCw s.v)
        ∧ encodeBody s = .error (.raised .internalInconsistency))
    ∨ (s.bb.length = 8 * dataCw s.v s.ecl ∧ (finalCodewords s.v s.ecl s.bb).length = rawCw s.v
        ∧ encodeBody s = outWriteBody (symbolSelected s)) := by
  rcases rsEncodeBody_cases s with ⟨hlen, ha⟩ | ⟨hlen, ha⟩
  · exact .inl ⟨fun h => absurd h hlen, by rw [encodeBody, ha]; rfl⟩
  · rcases gridBuildBody_cases
      (complete { invalidateGrid s with cw := finalCodewords s.v s.ecl s.bb, cwValid := true }) with
      ⟨hno, -⟩ | ⟨-, hcw, hb⟩ | ⟨-, hcw, hb⟩
    · cases hno
    · exact .inl ⟨fun _ => hcw, by rw [encodeBody, ha, Except.bind, hb]; rfl⟩
    · exact .inr ⟨hlen, hcw,
        encodeBody_of_stages ha hb (exec_ok_iff.mp ⟨exec_maskSelect_of_placed rfl, rfl⟩)⟩

theorem encodeBody_of_lengths {s : State} (hlen : s.bb.length = 8 * dataCw s.v s.ecl)
    (hcw : (finalCodewords s.v s.ecl s.bb).length = rawCw s.v) : encodeBody s = outWriteBody (symbolSelected s) := by
  rcases encodeBody_cases s with ⟨hne, -⟩ | ⟨-, -, hstages⟩
  · exact absurd hcw (hne hlen)
  · exact hstages

/-- Settles O48: at a legal version the final codewords have the version's number, so ENCODE comes down to OUT_WRITE
on the selected symbol. -/
theorem encodeRunsTheWholePipeline : Obligations.EncodeRunsTheWholePipeline := by
  intro s _ hlo hhi hlen hcap cw best
  obtain ⟨m, hok, -, hread⟩ := outWriteBody_of_final (s := symbolSelected s) rfl hcap
  have hbody : bodyOf .encode s = .ok (complete { symbolSelected s with out := m }) :=
    (encodeBody_of_lengths hlen (length_finalCodewords hlo hhi s.ecl s.bb)).trans hok
  exact ⟨_, (exec_ok_iff.mpr hbody).1, rfl, fun a ha => (hread a).trans (if_pos ha),
    fun a ha => (hread a).trans (if_neg (Nat.not_lt.mpr ha))⟩

/-- ENCODE reports a wrong length or a small buffer and no other error (R262). -/
theorem encodeBody_raises {s : State} {e : ErrCode} (h : encodeBody s = .error (.raised e)) :
    e = .internalInconsistency ∨ e = .bufferTooSmall := by
  rcases encodeBody_cases s with ⟨-, he⟩ | ⟨-, -, he⟩ <;> rw [he] at h
  · cases h
    exact .inl rfl
  · rcases outWriteBody_cases (symbolSelected s) with ⟨hne, -⟩ | ⟨-, -, he⟩ | ⟨-, -, m, he, -⟩
    · exact absurd rfl hne
    · rw [he] at h
      cases h
      exact .inr rfl
    · rw [he] at h
      cases h

/-- Settles O49: a command completes exactly when its body does, and the body of ENCODE is the four bodies in
sequence. -/
theorem encodeEqualsTheFourCommands : Obligations.EncodeEqualsTheFourCommands := by
  refine ⟨fun s t h hok => ?_, fun s a b c t ha hoka hb hokb hc hokc ht hokt => ?_, fun s t h => ?_⟩
  · obtain ⟨a, b, c, ha, hb, hc, ht⟩ := encodeBody_ok (exec_ok_iff.mp ⟨h, hok⟩)
    obtain ⟨ha, hoka⟩ := exec_ok_iff (i := .rsEncode).mpr ha
    obtain ⟨hb, hokb⟩ := exec_ok_iff (i := .gridBuild).mpr hb
    obtain ⟨hc, hokc⟩ := exec_ok_iff (i := .maskSelect).mpr hc
    obtain ⟨ht, -⟩ := exec_ok_iff (i := .outWrite).mpr ht
    exact ⟨a, b, c, ha, hoka, hb, hokb, hc, hokc, ht⟩
  · have hstages : encodeBody s = outWriteBody c :=
      encodeBody_of_stages (exec_ok_iff.mp ⟨ha, hoka⟩) (exec_ok_iff.mp ⟨hb, hokb⟩) (exec_ok_iff.mp ⟨hc, hokc⟩)
    exact (exec_ok_iff (i := .encode).mpr (hstages.trans (exec_ok_iff.mp ⟨ht, hokt⟩))).1
  · rcases exec_next h with hbody | ⟨e, he, rfl⟩
    · rw [(bodyOf_completes hbody).err]
      exact ⟨nofun, nofun⟩
    · rcases encodeBody_raises he with rfl | rfl <;> exact ⟨nofun, nofun⟩

/-- What a completed ENCODE has found and left: both lengths right, the buffer large enough, the selected symbol and its
image in OUT. -/
theorem encodeBody_completed {s t : State} (h : encodeBody s = .ok t) :
    s.bb.length = 8 * dataCw s.v s.ecl ∧ (finalCodewords s.v s.ecl s.bb).length = rawCw s.v ∧ outLen s.v ≤ s.outCap
    ∧ ∃ m, t = complete { symbolSelected s with out := m }
      ∧ (Memory.wf s.out → Memory.wf m)
      ∧ ∀ i < outLen s.v, Memory.read m i = (outImage s.v (symbolSelected s).grid)[i]? := by
  rcases encodeBody_cases s with ⟨-, he⟩ | ⟨hlen, hcw, he⟩ <;> rw [he] at h
  · cases h
  rcases outWriteBody_cases (symbolSelected s) with ⟨-, he⟩ | ⟨-, -, he⟩ | ⟨-, hcap, m, he, hwf, -, hread⟩ <;>
    rw [he] at h <;> cases h
  exact ⟨hlen, hcw, hcap, m, rfl, hwf, fun i hi => (hread i).trans (if_pos hi)⟩

/-- Settles O50: the first ENCODE leaves the symbol that the second one selects again, and its image is already in
OUT. -/
theorem encodingAgainChangesNothing : Obligations.EncodingAgainChangesNothing := by
  intro s t hwf h hok
  obtain ⟨hlen, hcw, hcap, m, rfl, hkeep, hheld⟩ := encodeBody_completed (exec_ok_iff.mp ⟨h, hok⟩)
  have hagain := encodeBody_of_lengths (s := complete { symbolSelected s with out := m }) hlen hcw
  have hsame := outWriteBody_eq_self (s := complete { symbolSelected s with out := m }) rfl hcap (hkeep hwf) hheld
  exact (exec_ok_iff (i := .encode).mpr (hagain.trans hsame)).1

end Sys2Proof.Machine
end

section
/-! Errors and the fault state (60_exceptions.md R301 to R305): what a failed command leaves behind, which of several
errors is reported, and how FAULT is entered and left. -/

namespace Sys2Proof.Machine

/-! A command that fails (R301, R303). -/

theorem exec_of_raised {i : Instr} {s : State} {e : ErrCode} (h : bodyOf i s = .error (.raised e)) :
    exec i s = .next (raiseError e (encode i) s) := by
  rw [exec_eq_finish, h, finish_raised]

/-- A command that ends with an error ends in the state before it with that error raised: a completed body ends
with OK. -/
theorem exec_failed {i : Instr} {s t : State} (h : exec i s = .next t) (hne : t.err ≠ .ok) :
    t = raiseError t.err (encode i) s := by
  rcases exec_next h with hbody | ⟨e, -, rfl⟩
  · exact absurd (bodyOf_completes hbody).err hne
  · rfl

/-- InternalInconsistency enters the fault state (R305). -/
theorem raiseError_internalInconsistency (w : Word) (s : State) : raiseError .internalInconsistency w s
    = { s with err := .internalInconsistency, errCmd := w, fault := true } := by
  simp [raiseError]

/-- Settles O13: raising sets FAULT for one error and leaves it for the others. -/
theorem raiseWritesErrAndErrCmd : Obligations.RaiseWritesErrAndErrCmd := by
  refine ⟨fun e w s => ?_, fun _ _ _ => exec_failed⟩
  by_cases he : e = .internalInconsistency
  · subst he
    exact raiseError_internalInconsistency w s
  · rw [raiseError_of_ne he, if_neg he]

/-- Settles O14: the failed command's state is the old one with the error raised. -/
theorem failingCommandChangesNothingElse : Obligations.FailingCommandChangesNothingElse := by
  intro i s t h hne
  have ht : t = raiseError t.err (encode i) s := exec_failed h hne
  generalize t.err = e at ht ⊢
  subst ht
  exact ⟨rfl, fun he => by rw [raiseError_of_ne he], fun he => by rw [he, raiseError_internalInconsistency]⟩

/-! The error each command reports first (R304). -/

theorem exec_cfgSet_of_version {mask : BitVec 4} {ver : BitVec 6} (e : Ecl) (s : State)
    (hmask : maskFieldLegal mask = true) (hver : ver.toNat < 1 ∨ 40 < ver.toNat) :
    exec (.cfgSet mask e ver) s = .next (raiseError .invalidVersionRange (encode (.cfgSet mask e ver)) s) := by
  obtain ⟨req, hreq, -⟩ := maskReqOfField_of_legal hmask
  rcases cfgSetBody_cases mask e ver s with ⟨hnone, -⟩ | ⟨_, -, -, he⟩ | ⟨_, -, hlo, hhi, -⟩
  · rw [hreq] at hnone; cases hnone
  · exact exec_of_raised he
  · omega

theorem exec_bbAppend_of_full {n : BitVec 5} {x : BitVec 16} {s : State} (hlegal : appendFieldsLegal n x = true)
    (hfull : Config.bbCapBits < s.bb.length + n.toNat) :
    exec (.bbAppend n x) s = .next (raiseError .internalInconsistency (encode (.bbAppend n x)) s) := by
  obtain ⟨hn, hx⟩ := (wellFormed_bbAppend n x).mp hlegal
  rcases bbAppendBody_cases n x s with ⟨hbad, -⟩ | ⟨-, -, -, he⟩ | ⟨-, -, hroom, -⟩
  · omega
  · exact exec_of_raised he
  · omega

theorem exec_rsEncode_of_length_ne {s : State} (h : s.bb.length ≠ 8 * dataCw s.v s.ecl) :
    exec .rsEncode s = .next (raiseError .internalInconsistency (encode .rsEncode) s) := by
  rcases rsEncodeBody_cases s with ⟨-, he⟩ | ⟨hlen, -⟩
  · exact exec_of_raised he
  · exact absurd hlen h

theorem exec_gridBuild_of_invalid {s : State} (h : s.cwValid = false) :
    exec .gridBuild s = .next (raiseError .stageError (encode .gridBuild) s) := by
  rcases gridBuildBody_cases s with ⟨-, he⟩ | ⟨hvalid, -⟩ | ⟨hvalid, -⟩
  · exact exec_of_raised he
  all_goals rw [h] at hvalid; cases hvalid

theorem exec_gridBuild_of_length_ne {s : State} (hvalid : s.cwValid = true) (h : s.cw.length ≠ rawCw s.v) :
    exec .gridBuild s = .next (raiseError .internalInconsistency (encode .gridBuild) s) := by
  rcases gridBuildBody_cases s with ⟨hno, -⟩ | ⟨-, -, he⟩ | ⟨-, hlen, -⟩
  · rw [hvalid] at hno; cases hno
  · exact exec_of_raised he
  · exact absurd hlen h

theorem exec_maskSelect_of_not_placed {s : State} (h : s.gridState ≠ .placed) :
    exec .maskSelect s = .next (raiseError .stageError (encode .maskSelect) s) := by
  rcases maskSelectBody_cases s with ⟨-, he⟩ | ⟨hplaced, -⟩
  · exact exec_of_raised he
  · exact absurd hplaced h

theorem exec_outWrite_of_not_final {s : State} (h : s.gridState ≠ .final) :
    exec .outWrite s = .next (raiseError .stageError (encode .outWrite) s) := by
  rcases outWriteBody_cases s with ⟨-, he⟩ | ⟨hfinal, -⟩ | ⟨hfinal, -⟩
  · exact exec_of_raised he
  all_goals exact absurd hfinal h

/-- OUT_WRITE finds the buffer too small once the stage is right (46_output.md R261). -/
theorem outWriteBody_of_small {s : State} (hfinal : s.gridState = .final) (hcap : s.outCap < outLen s.v) :
    outWriteBody s = .error (.raised .bufferTooSmall) := by
  rcases outWriteBody_cases s with ⟨hne, -⟩ | ⟨-, -, he⟩ | ⟨-, hroom, -⟩
  · exact absurd hfinal hne
  · exact he
  · omega

theorem exec_encode_of_length_ne {s : State} (h : s.bb.length ≠ 8 * dataCw s.v s.ecl) :
    exec .encode s = .next (raiseError .internalInconsistency (encode .encode) s) := by
  rcases encodeBody_cases s with ⟨-, he⟩ | ⟨hlen, -⟩
  · exact exec_of_raised he
  · exact absurd hlen h

/-- ENCODE at a legal version reaches OUT_WRITE once the length is right, and reports its error (46_output.md R262). -/
theorem exec_encode_of_small {s : State} (hlen : s.bb.length = 8 * dataCw s.v s.ecl) (hlo : 1 ≤ s.v) (hhi : s.v ≤ 40)
    (hcap : s.outCap < outLen s.v) :
    exec .encode s = .next (raiseError .bufferTooSmall (encode .encode) s) :=
  exec_of_raised (i := .encode) <|
    calc encodeBody s
        = outWriteBody (symbolSelected s) := encodeBody_of_lengths hlen (length_finalCodewords hlo hhi s.ecl s.bb)
      _ = .error (.raised .bufferTooSmall) := outWriteBody_of_small rfl hcap

/-- Settles O16: the port's tests come first, then the command's own, in the order of its body. -/
theorem errorsAreReportedInOrder : Obligations.ErrorsAreReportedInOrder := fun s w =>
  ⟨fun hf => execWord_of_fault hf w,
    fun _ hf hd => by rw [execWord_of_error hf hd, raiseError_of_ne (by decide)],
    fun _ => execWord_of_ok,
    fun _ e _ => exec_cfgSet_of_version e s,
    fun _ _ => exec_bbAppend_of_full,
    exec_rsEncode_of_length_ne,
    exec_gridBuild_of_invalid,
    exec_gridBuild_of_length_ne,
    exec_maskSelect_of_not_placed,
    exec_outWrite_of_not_final,
    fun hfinal hcap => exec_of_raised (i := .outWrite) (outWriteBody_of_small hfinal hcap),
    exec_encode_of_length_ne,
    exec_encode_of_small,
    _, exec_ok_iff (i := .bbClear).mpr rfl⟩

/-! The fault state (R305). -/

/-- Under FAULT the host's reset alone ends with FAULT clear: a word leaves the state as it is. -/
theorem reset_of_serve_clears_fault {a : PortInput} {s t : State} (hf : s.fault = true) (h : serve a s = .next t)
    (ht : t.fault = false) : a = .reset := by
  cases a with
  | reset => rfl
  | command w =>
    rw [serve, execWord_of_fault hf] at h
    cases h
    rw [hf] at ht
    cases ht

/-- After InternalInconsistency, with nothing encoded and no grid, STATUS is the code 4 and FAULT (10_state.md R24). -/
theorem statusWord_raiseError_internalInconsistency {s : State} (w : Word) (hcw : s.cwValid = false)
    (hgrid : s.gridState = .empty) : statusWord (raiseError .internalInconsistency w s) = 0x14 := by
  simp only [statusWord, raiseError_internalInconsistency, hcw, hgrid]
  rfl

/-- Settles O10: the example's 8 bits are not the 19 codewords of version 1 LOW, so RS_ENCODE enters the fault state. -/
theorem faultIgnoresEveryWordUntilReset : Obligations.FaultIgnoresEveryWordUntilReset := by
  refine ⟨fun s w => raiseError_internalInconsistency w s, fun s w hf => execWord_of_fault hf w,
    fun _ _ _ => reset_of_serve_clears_fault, fun s => ⟨hostReset s, rfl, rfl⟩,
    fun s _ hver hecl hlen hcw hgrid => ?_⟩
  have hwrong : s.bb.length ≠ 8 * dataCw s.v s.ecl := by
    rw [hlen, State.v, hver, hecl]
    decide
  exact ⟨_, exec_rsEncode_of_length_ne hwrong, statusWord_raiseError_internalInconsistency _ hcw hgrid,
    execWord_of_fault (by simp) _⟩

end Sys2Proof.Machine
end

section
/-! Reset (70_reset_and_hazards.md R340, R341): the table of reset values, as state and through the read port, and the
coherence of the state it gives. -/

namespace Sys2Proof.Machine

/-- A grid with every cell UNSET reads 0 at every index of GRID space (20_memory.md R54). -/
theorem readGrid_of_unset {s : State} (h : ∀ x y, s.grid.get x y = .unset) (k : Nat) : readGrid s k = 0 := by
  unfold readGrid
  split
  · rw [h, Cell.byte_unset]
  · rfl

theorem get_grid_hostReset (s : State) (x y : Nat) : (hostReset s).grid.get x y = .unset :=
  Grid.get_nil x y

theorem pens_hostReset (s : State) (m : Fin 8) : (hostReset s).pens[m] = 0xFFFFFFFF := by
  fin_cases m <;> rfl

/-- No register depends on what the host's reset keeps: OUT, OUT_CAP and the waiting actions (R340). -/
theorem readReg_hostReset (s : State) (r : Nat) : readReg (hostReset s) r = readReg State.reset r := rfl

/-- STATUS after reset: OK, no FAULT, no codewords and an EMPTY grid (R341). -/
theorem readReg_status_hostReset (s : State) : readReg (hostReset s) 0 = 0 := by
  rw [readReg_hostReset]
  decide

/-- CONFIG after reset: version 1, LOW, automatic mask (R341). -/
theorem readReg_config_hostReset (s : State) : readReg (hostReset s) 1 = 0x0000F001 := by
  rw [readReg_hostReset]
  decide

/-- The derived registers after reset are those of version 1 LOW (R341). -/
theorem readReg_derived_hostReset (s : State) :
    (List.range 6).map (fun k => (readReg (hostReset s) (4 + k)).toNat) = [21, 19, 26, 1, 7, 57] := by
  simp only [readReg_hostReset]
  exact derivedRegistersFollowConfig.2.2

/-- Settles O12: the host's reset answers `hostReset`, whose fields are the table's and whose CW and grid are empty. -/
theorem resetGivesTheTable : Obligations.ResetGivesTheTable := by
  intro s
  have hunset := get_grid_hostReset s
  have hcw : ∀ i, readCW (hostReset s) i = 0 := fun i => readCW_of_length_le (Nat.zero_le i)
  exact ⟨hostReset s, rfl,
    -- STATUS and CONFIG
    rfl, rfl, rfl, rfl, rfl, rfl, rfl, readReg_config_hostReset s,
    -- the BitBuffer, CW and the grid
    rfl, rfl, rfl, rfl, hcw, hunset, readGrid_of_unset hunset,
    -- ERR_CMD and the mask results
    rfl, rfl, rfl, pens_hostReset s,
    -- STATUS and the derived registers through the read port
    readReg_status_hostReset s, readReg_derived_hostReset s,
    -- what reset leaves alone
    hostReset_out s, hostReset_outCap s⟩

/-- Settles O55: the reset state is its own reset, and OUT lists no byte. -/
theorem resetStateIsCoherent : Obligations.ResetStateIsCoherent := by
  have hself : hostReset State.reset = State.reset := rfl
  have hin : ∀ c ∈ State.reset.out, c.1 < State.reset.outCap := List.forall_mem_nil _
  have hc := hostReset_coherent Memory.reset_wf hin
  rwa [hself] at hc

end Sys2Proof.Machine
end
